-- ==== Sys2Proof/Word.lean ====
section
/-!
DEFINITION. The widths of SMFC: bytes, 16-bit plaintext words, 32-bit registers, 64-bit positions (00_scope.md R10).
Every quantity is unsigned (41_block_codec.md R156).
-/

namespace Sys2Proof

/-- `u8`: a byte of a stream, a buffer or a counter (R10). -/
abbrev Byte := BitVec 8

/-- `u16`: a plaintext word `w[i]`, a 16-bit frame length (R62, R63). -/
abbrev Half := BitVec 16

/-- `u32`: a register, a key value, a ring value `r[i]` (R10, R30, R40). -/
abbrev Word := BitVec 32

/-- `u64`: a stream position (R26, R29). -/
abbrev Dword := BitVec 64

/-- `u18`: a packed value (R10, R135). -/
abbrev Field := BitVec 18

end Sys2Proof
end

