-- ==== Sys2Proof/Syntax.lean ====
section
/-!
DEFINITION. The instructions of SMFC, one constructor for each row of opcode_table.json, and what the outside parties
offer to the machine (the form an instruction has before it is decoded).
-/

namespace Sys2Proof

/-- The two key banks (10_state.md R40). -/
inductive Bank where
  | /-- Base 0x100, read by the TX path and CMD.BLK_ENC. -/ txk
  | /-- Base 0x200, read by the RX path and CMD.BLK_DEC. -/ rxk
  deriving DecidableEq, Repr

/-- The operations of SMFC 1.0 (00_scope.md R14). -/
inductive Instr where
  /-- FRAME.C1, R187: `[0xC1, len]` then the content. -/
  | frameC1 (len : Byte) (content : List Byte)
  /-- FRAME.C2, R188: `[0xC2, lenHi, lenLo]` then the content. -/
  | frameC2 (len : Half) (content : List Byte)
  /-- FRAME.C3, R189: `[0xC3, lenHi, lenLo]` then ciphertext blocks. -/
  | frameC3 (len : Half) (content : List Byte)
  /-- FRAME.C4, R190: `[0xC4, lenHi, lenLo]` then ciphertext blocks. -/
  | frameC4 (len : Half) (content : List Byte)
  /-- CMD.NOP, R264. -/
  | cmdNop
  /-- CMD.CONN_RESET, R265. -/
  | cmdConnReset
  /-- CMD.RX_CTR_RESET, R266. -/
  | cmdRxCtrReset
  /-- CMD.TX_CTR_RESET, R267. -/
  | cmdTxCtrReset
  /-- CMD.BLK_ENC, R268. -/
  | cmdBlkEnc
  /-- CMD.BLK_DEC, R269. -/
  | cmdBlkDec
  /-- CMD.PACK18, R270. -/
  | cmdPack18
  /-- CMD.UNPACK18, R271. -/
  | cmdUnpack18
  /-- CSR.RD(n), R260; `n` is 0x000..0xFFF. -/
  | csrRd (n : BitVec 12)
  /-- CSR.WR(n, v), R261. -/
  | csrWr (n : BitVec 12) (v : Word)
  /-- RX.BYTE(b), R181. -/
  | rxByte (b : Byte)
  /-- RX.PROCESS, R231. -/
  | rxProcess
  /-- RX.DELIVER, R238. -/
  | rxDeliver
  /-- RX.CLOSE, R191. -/
  | rxClose
  /-- RX.ABORT, R192. -/
  | rxAbort
  /-- TX.FRAME(TXIN), R212; TXIN need not be a well-formed frame (R210). -/
  | txFrame (txin : List Byte)
  /-- TX.BYTE, R216. -/
  | txByte
  /-- TX.CLOSE, R217. -/
  | txClose
  /-- TX.ABORT, R218. -/
  | txAbort
  /-- RESET, R360. -/
  | reset
  /-- MODMUL(a, k, m), R150. -/
  | modmul (a k m : Word)
  /-- CSUM(P, n), R151. -/
  | csum (p : List Byte) (n : Nat)
  /-- PACK18(B, i, v), R136. -/
  | pack18 (b : List Byte) (i : BitVec 4) (v : Word)
  /-- UNPACK18(B, i), R137. -/
  | unpack18 (b : List Byte) (i : BitVec 4)
  /-- BLK.ENC(bank, P, usedLen), R153. -/
  | blkEnc (bank : Bank) (p : List Byte) (usedLen : Byte)
  /-- BLK.DEC(bank, C, lenient), R154. -/
  | blkDec (bank : Bank) (c : List Byte) (lenient : Bool)
  deriving DecidableEq, Repr

/-- What an outside party offers next (log entry 1). The two encoded forms are bytes on port RXB and a write on the
register port (30_encoding.md R122, formats FRAME_SHORT, FRAME_LONG, CMD, CSR); every other operation is an event that
has no bit pattern ("events, not encodings", R122). -/
inductive Offer where
  /-- Bytes the transport puts on RXB together. -/
  | wire (bytes : List Byte)
  /-- A write of `v` to register number `n` on the register port. -/
  | hostWrite (n : BitVec 12) (v : Word)
  /-- A step without an encoding, named. -/
  | event (i : Instr)
  deriving DecidableEq, Repr

/-- Why an offer is no instruction. -/
inductive DecodeError where
  /-- No byte was offered. -/
  | emptyOffer
  /-- The first byte is not a recognized type byte (R90, R112). -/
  | illegalType (t : Byte)
  /-- The bytes end before the header does (R91). -/
  | truncatedHeader
  /-- The content has another length than the header declares (R93). -/
  | lengthMismatch
  /-- An instruction with an encoding was offered as an event. -/
  | encodedRow
  deriving DecidableEq, Repr

end Sys2Proof
end

