-- ==== Sys2Proof/WellFormed.lean ====
section
/-!
DEFINITION. The operand checks the spec's formats state: a frame's content has the declared length (R93, R95), a CSR.WR
that carries a listed command code is that command's row (R110, R122), TXIN is at most 65535 bytes (R210), a checksum
span lies in its bytes (R151), a packing buffer holds the three bytes of its field (R136, R137), a block has the size of
a variant (R8, R153, R154).
-/

namespace Sys2Proof

/-- The command codes of 30_encoding.md R110. -/
def listedCommandCodes : List Byte := [0x00, 0x01, 0x02, 0x03, 0x10, 0x11, 0x12, 0x13]

/-- The check of one instruction's operands. A frame may declare less than its header: it then has no content, and
running it raises ContentLength sub-cause 3 (R185). -/
def WellFormed : Instr → Bool
  | .frameC1 len content => content.length == len.toNat - 2
  | .frameC2 len content => content.length == len.toNat - 3
  | .frameC3 len content => content.length == len.toNat - 3
  | .frameC4 len content => content.length == len.toNat - 3
  | .csrWr n v => !(n == 0x00F && listedCommandCodes.contains (v.setWidth 8))
  | .txFrame txin => decide (txin.length ≤ 65535)
  | .csum p n => decide (n ≤ p.length)
  | .pack18 b i _ => decide (18 * i.toNat / 8 + 3 ≤ b.length)
  | .unpack18 b i => decide (18 * i.toNat / 8 + 3 ≤ b.length)
  | .blkEnc _ p _ => p.length == 8 || p.length == 32
  | .blkDec _ c _ => c.length == 11 || c.length == 38
  | .cmdNop | .cmdConnReset | .cmdRxCtrReset | .cmdTxCtrReset => true
  | .cmdBlkEnc | .cmdBlkDec | .cmdPack18 | .cmdUnpack18 => true
  | .csrRd _ | .rxByte _ | .rxProcess | .rxDeliver | .rxClose | .rxAbort => true
  | .txByte | .txClose | .txAbort | .reset | .modmul _ _ _ => true

end Sys2Proof
end

