-- ==== Sys2Proof/Decode.lean ====
section
/-!
DEFINITION. Encodings and formats (30_encoding.md): frame headers (R90 to R94), the decoder of offers, total and
rejecting by name, the encoder, and the decoding of a row of opcode_table.json.
-/

namespace Sys2Proof

/-! ### Frame headers -/

/-- R90: the recognized type bytes are exactly 0xC1, 0xC2, 0xC3, 0xC4. -/
def isRecognized (t : Byte) : Bool :=
  t == 0xC1 || t == 0xC2 || t == 0xC3 || t == 0xC4

/-- R91: `hdrLen(t)`. The spec defines it for recognized `t` only; 3 for every other byte is log entry 11. -/
def hdrLen (t : Byte) : Nat :=
  if t = 0xC1 then 2 else 3

/-- R92: `isCipher(t) = (t >= 0xC3)`, for recognized `t`. -/
def isCipher (t : Byte) : Bool :=
  decide (0xC3#8 ≤ t)

/-- `BE16(b0, b1)` (R12, R63): the first byte is the high one. -/
def be16 (hi lo : Byte) : Half :=
  hi ++ lo

/-- R93: `totalLen(B)`, for `|B| >= hdrLen(B[0])`. -/
def totalLen (bs : List Byte) : Nat :=
  if hdrLen (bs.getD 0 0) = 2 then (bs.getD 1 0).toNat else (be16 (bs.getD 1 0) (bs.getD 2 0)).toNat

/-- R94: `makeHeader(t, T)`, for `hdrLen(t) <= T <= maxTotal(t)`. -/
def makeHeader (t : Byte) (total : Nat) : List Byte :=
  if hdrLen t = 2 then [t, BitVec.ofNat 8 total]
  else [t, BitVec.ofNat 8 (total / 256), BitVec.ofNat 8 total]

/-- The bytes of a short-header frame (R95). -/
def shortFrame (t len : Byte) (content : List Byte) : List Byte :=
  t :: len :: content

/-- The bytes of a long-header frame (R95, R63). -/
def longFrame (t : Byte) (len : Half) (content : List Byte) : List Byte :=
  t :: len.extractLsb' 8 8 :: len.extractLsb' 0 8 :: content

/-! ### Decoding -/

/-- What follows the type byte 0xC1 (R187). -/
def decodeShortBody : List Byte → Except DecodeError Instr
  | [] => .error .truncatedHeader
  | len :: content =>
    if content.length = len.toNat - 2 then .ok (.frameC1 len content) else .error .lengthMismatch

/-- What follows the type byte of a long-header class (R188 to R190). -/
def decodeLongBody (mk : Half → List Byte → Instr) : List Byte → Except DecodeError Instr
  | hi :: lo :: content =>
    if content.length = (be16 hi lo).toNat - 3 then .ok (mk (be16 hi lo) content) else .error .lengthMismatch
  | _ => .error .truncatedHeader

/-- A frame on RXB: the type byte is its opcode (R90, R112, R116). -/
def decodeFrame : List Byte → Except DecodeError Instr
  | [] => .error .emptyOffer
  | t :: body =>
    if t = 0xC1 then decodeShortBody body
    else if t = 0xC2 then decodeLongBody .frameC2 body
    else if t = 0xC3 then decodeLongBody .frameC3 body
    else if t = 0xC4 then decodeLongBody .frameC4 body
    else .error (.illegalType t)

/-- R110: the command of a code; the other codes are reserved (R111). -/
def commandOf (code : Byte) : Option Instr :=
  if code = 0x00 then some .cmdNop
  else if code = 0x01 then some .cmdConnReset
  else if code = 0x02 then some .cmdRxCtrReset
  else if code = 0x03 then some .cmdTxCtrReset
  else if code = 0x10 then some .cmdBlkEnc
  else if code = 0x11 then some .cmdBlkDec
  else if code = 0x12 then some .cmdPack18
  else if code = 0x13 then some .cmdUnpack18
  else none

/-- The number of register CMD (10_state.md R37). -/
def cmdNumber : BitVec 12 := 0x00F

/-- A write on the register port: to CMD with a listed code in bits 7:0 it is that command's row, bits 31:8 ignored
(R37, R110); else it is CSR.WR. -/
def decodeWrite (n : BitVec 12) (v : Word) : Instr :=
  if n = cmdNumber then
    match commandOf (v.setWidth 8) with
    | some i => i
    | none => .csrWr n v
  else .csrWr n v

/-- The operations without a bit pattern: CSR.RD and the rows of formats PORT and MICRO (R122). -/
def Instr.isEvent : Instr → Bool
  | .frameC1 _ _ | .frameC2 _ _ | .frameC3 _ _ | .frameC4 _ _ => false
  | .cmdNop | .cmdConnReset | .cmdRxCtrReset | .cmdTxCtrReset => false
  | .cmdBlkEnc | .cmdBlkDec | .cmdPack18 | .cmdUnpack18 => false
  | .csrWr _ _ => false
  | .csrRd _ | .rxByte _ | .rxProcess | .rxDeliver | .rxClose | .rxAbort => true
  | .txFrame _ | .txByte | .txClose | .txAbort | .reset => true
  | .modmul _ _ _ | .csum _ _ | .pack18 _ _ _ | .unpack18 _ _ | .blkEnc _ _ _ | .blkDec _ _ _ => true

/-- The decoder, total on every offer. -/
def decode : Offer → Except DecodeError Instr
  | .wire bytes => decodeFrame bytes
  | .hostWrite n v => .ok (decodeWrite n v)
  | .event i => if i.isEvent then .ok i else .error .encodedRow

/-! ### Encoding -/

/-- A command as the register port carries it: `csr.wr CMD, code` (R120). -/
def encodeCommand (code : Byte) : Offer :=
  .hostWrite cmdNumber (code.setWidth 32)

/-- The offer of an instruction: the bytes of R95 for a frame, the register write of R110 for a command, the write
itself for CSR.WR, and the event itself for the rows without a bit pattern (R122). -/
def encode : Instr → Offer
  | .frameC1 len content => .wire (shortFrame 0xC1 len content)
  | .frameC2 len content => .wire (longFrame 0xC2 len content)
  | .frameC3 len content => .wire (longFrame 0xC3 len content)
  | .frameC4 len content => .wire (longFrame 0xC4 len content)
  | .cmdNop => encodeCommand 0x00
  | .cmdConnReset => encodeCommand 0x01
  | .cmdRxCtrReset => encodeCommand 0x02
  | .cmdTxCtrReset => encodeCommand 0x03
  | .cmdBlkEnc => encodeCommand 0x10
  | .cmdBlkDec => encodeCommand 0x11
  | .cmdPack18 => encodeCommand 0x12
  | .cmdUnpack18 => encodeCommand 0x13
  | .csrWr n v => .hostWrite n v
  | .csrRd n => .event (.csrRd n)
  | .rxByte b => .event (.rxByte b)
  | .rxProcess => .event .rxProcess
  | .rxDeliver => .event .rxDeliver
  | .rxClose => .event .rxClose
  | .rxAbort => .event .rxAbort
  | .txFrame txin => .event (.txFrame txin)
  | .txByte => .event .txByte
  | .txClose => .event .txClose
  | .txAbort => .event .txAbort
  | .reset => .event .reset
  | .modmul a k m => .event (.modmul a k m)
  | .csum p n => .event (.csum p n)
  | .pack18 b i v => .event (.pack18 b i v)
  | .unpack18 b i => .event (.unpack18 b i)
  | .blkEnc bank p usedLen => .event (.blkEnc bank p usedLen)
  | .blkDec bank c lenient => .event (.blkDec bank c lenient)

/-! ### A row of the opcode table as a number -/

/-- Byte `j` of an instruction given as the number `w` of `nbits` bits, byte 0 the least significant; every byte above
`nbits` is 0. -/
def tableByte (nbits w j : Nat) : Byte :=
  BitVec.ofNat 8 ((w % 2 ^ nbits) >>> (8 * j))

/-- The first `k` bytes of that instruction, the first at offset 0. -/
def tableBytes (nbits w k : Nat) : List Byte :=
  (List.range k).map (tableByte nbits w)

/-- The offer that carries the instruction: a whole frame on RXB where byte 0 is a recognized type byte, else a write of
the number to CMD; the two sets of opcodes are disjoint (R90, R110). A number of no bits is no instruction. -/
def tableOffer (nbits w : Nat) : Option Offer :=
  if nbits = 0 then none
  else if isRecognized (tableByte nbits w 0) then
    some (.wire (tableBytes nbits w
      (max (hdrLen (tableByte nbits w 0)) (totalLen (tableBytes nbits w 3)))))
  else some (.hostWrite cmdNumber (BitVec.ofNat 32 (w % 2 ^ nbits)))

/-- The instruction the decoder reads from a table row's word. -/
def decodeTableWord (nbits w : Nat) : Option Instr :=
  match tableOffer nbits w with
  | none => none
  | some o =>
    match decode o with
    | .ok i => some i
    | .error _ => none

end Sys2Proof
end

