-- ==== Sys2Proof/Machine/State.lean ====
section
/-!
DEFINITION. The state of SMFC as plain data (10_state.md), its reset value (10_state.md R46, 70_reset_and_hazards.md
R360), the causes of 60_exceptions.md R321, and the reasons the model stops.
-/

namespace Sys2Proof.Machine

/-- CTRL.VARIANT (00_scope.md R8, 10_state.md R31): `new` is 0, `old` is 1. -/
inductive Variant where
  | new
  | old
  deriving DecidableEq, Repr

/-- The path a fault was raised on: `DIR`, 0 for RX and 1 for TX (10_state.md R33). -/
inductive Dir where
  | rx
  | tx
  deriving DecidableEq, Repr

/-- The fault causes (60_exceptions.md R320, R321). -/
inductive Cause where
  | invalidPacketHeader
  | invalidBlockSize
  | invalidBlockChecksum
  | invalidPacketCounter
  | contentLength
  | invalidKey
  deriving DecidableEq, Repr

/-- `raise <Fault>(info0, info1)` (00_scope.md R12). -/
structure Raised where
  cause : Cause
  info0 : Word
  info1 : Word
  deriving DecidableEq, Repr

/-- A key bank: four files of 16 registers (10_state.md R40). -/
structure KeyBank where
  mod : Vector Word 16
  enc : Vector Word 16
  dec : Vector Word 16
  xork : Vector Word 16
  deriving DecidableEq, Repr

/-- The four files of a key bank, in the order of their register numbers (10_state.md R40). -/
inductive KeyFile where
  | mod
  | enc
  | dec
  | xork
  deriving DecidableEq, Repr

/-- The mapped registers (10_state.md R30). -/
inductive Csr where
  | ctrl | status | errCode | errInfo0 | errInfo1 | errPosLo | errPosHi
  | rxCtr | txCtr | rxPosLo | rxPosHi | txPosLo | txPosHi | warnCnt | rxRemain
  | cmd | blkLen | blkStatus | pkSlot | pkVal
  | dpb (k : Fin 8)
  | dcb (k : Fin 10)
  | key (bank : Bank) (file : KeyFile) (slot : Fin 16)
  deriving DecidableEq, Repr

/-- The framer's state (10_state.md R24). -/
inductive RxState where
  | awaitingHeader
  | awaitingContent
  | emit
  deriving DecidableEq, Repr

/-- What the ports carried in the last step: the MODEL's own record of the step's result (log entry 4). -/
inductive Response where
  /-- No step has been taken since reset. -/
  | idle
  /-- The step was not enabled: its port is not ready or not valid and nothing happened (93 U33). -/
  | notReady
  /-- The step happened and has no result. -/
  | done
  /-- A 32-bit result: CSR.RD, MODMUL. -/
  | word (v : Word)
  /-- One byte: TX.BYTE on TXB, the result of CSUM. -/
  | byte (b : Byte)
  /-- Bytes: the frame RX.DELIVER hands over on RXF, the result of PACK18 and of BLK.ENC. -/
  | bytes (bs : List Byte)
  /-- An 18-bit result: UNPACK18. -/
  | field (v : Field)
  /-- The result of BLK.DEC. -/
  | block (plain : List Byte) (usedLen : Byte) (warned : Bool)
  /-- RX.PROCESS put a frame into OUTF; `pulses` pulses were driven on warn_o (R237, R334). -/
  | processed (pulses : Nat)
  /-- RXB stopped being ready; these bytes are still with the transport (R181, log entry 6). -/
  | stalled (untaken : List Byte)
  /-- The step raised a fault and fault entry was taken (R330). -/
  | faulted
  /-- A micro-operation raised a fault as its result; no state changed (R153, R154). -/
  | raised (x : Raised)
  deriving DecidableEq, Repr

/-- The state of SMFC (10_state.md R20), and the model's own fields `sched` and `resp`. -/
structure State where
  /-- CTRL.VARIANT, R31. -/
  variant : Variant
  /-- CTRL.LENIENT, R31. -/
  lenient : Bool
  /-- CTRL.RX_EN, R31. -/
  rxEn : Bool
  /-- CTRL.TX_EN, R31. -/
  txEn : Bool
  /-- Key bank TXK, R40. -/
  txk : KeyBank
  /-- Key bank RXK, R40. -/
  rxk : KeyBank
  /-- RX_CTR, R34. -/
  rxCtr : Byte
  /-- TX_CTR, R34. -/
  txCtr : Byte
  /-- RXBUF, R23. -/
  rxbuf : List Byte
  /-- OUTF, R25. -/
  outf : Option (List Byte)
  /-- RX_POS, R26. -/
  rxPos : Dword
  /-- RX_CLOSED, R27. -/
  rxClosed : Bool
  /-- TXOUT, R28. -/
  txout : List Byte
  /-- TX_POS, R29. -/
  txPos : Dword
  /-- TX_CLOSED, R29. -/
  txClosed : Bool
  /-- FAULT, the fault latch, R33. -/
  fault : Bool
  /-- ERR_CODE, R33. -/
  errCode : Word
  /-- ERR_INFO0, R33. -/
  errInfo0 : Word
  /-- ERR_INFO1, R33. -/
  errInfo1 : Word
  /-- ERR_POS_HI:ERR_POS_LO, R33. -/
  errPos : Dword
  /-- WARN_CNT, R36. -/
  warnCnt : Word
  /-- BLK_LEN, R38. -/
  blkLen : Byte
  /-- BLK_STATUS, R38. -/
  blkStatus : Word
  /-- PK_SLOT, R38. -/
  pkSlot : BitVec 4
  /-- PK_VAL, R38. -/
  pkVal : Field
  /-- DPB, R39. -/
  dpb : Vector Byte 32
  /-- DCB, R39. -/
  dcb : Vector Byte 38
  /-- The MODEL's own: what the outside parties offer, the next first (log entry 1). -/
  sched : List Offer
  /-- The MODEL's own: the result of the last step (log entry 4). -/
  resp : Response
  deriving DecidableEq, Repr

/-- Why the model stops. SMFC's own faults are no such stop: they are taken by fault entry (R330), a next state. -/
inductive Fault where
  /-- Raised by `step` for an offer that is no step of any agent: an instruction with an encoding offered as an event
  (log entry 14). Safe: the machine has no such step. -/
  | undecodable (e : DecodeError)
  deriving DecidableEq, Repr

/-- Why the model gives an instruction no meaning. -/
inductive Refusal where
  /-- Raised by `exec` for an instruction that has no meaning yet. Safe. -/
  | notModelled (mnemonic : String)
  deriving DecidableEq, Repr

/-- A key bank after RESET (R46): all 64 registers 0. -/
def KeyBank.zero : KeyBank where
  mod := Vector.replicate 16 0
  enc := Vector.replicate 16 0
  dec := Vector.replicate 16 0
  xork := Vector.replicate 16 0

/-- The state after RESET: column "after RESET" of 10_state.md R46. `sched` and `resp` are the model's own (log entries
1 and 4). -/
def State.reset : State where
  variant := .new
  lenient := false
  rxEn := false
  txEn := false
  txk := KeyBank.zero
  rxk := KeyBank.zero
  rxCtr := 0
  txCtr := 0
  rxbuf := []
  outf := none
  rxPos := 0
  rxClosed := false
  txout := []
  txPos := 0
  txClosed := false
  fault := false
  errCode := 0
  errInfo0 := 0
  errInfo1 := 0
  errPos := 0
  warnCnt := 0
  blkLen := 0
  blkStatus := 0
  pkSlot := 0
  pkVal := 0
  dpb := Vector.replicate 32 0
  dcb := Vector.replicate 38 0
  sched := []
  resp := .idle

end Sys2Proof.Machine
end

