-- ==== Sys2Proof/Machine/Operands.lean ====
section
/-!
DEFINITION. Operand forms: the constants a variant fixes (00_scope.md R8), words of a plaintext block (20_memory.md
R62), the slots of a key bank (10_state.md R40), the register map (R30), the windows (R39).
-/

namespace Sys2Proof.Machine

/-! ### Constants of the variant (R8) -/

/-- `slotCount` N: 4 or 16. -/
def Variant.slotCount : Variant → Nat
  | .new => 4
  | .old => 16

/-- `blockCap`, plaintext bytes per block: 8 or 32. -/
def Variant.blockCap : Variant → Nat
  | .new => 8
  | .old => 32

/-- `encBlockSize`, ciphertext bytes per block: 11 or 38. -/
def Variant.encBlockSize : Variant → Nat
  | .new => 11
  | .old => 38

/-- `usesCounter`. -/
def Variant.usesCounter : Variant → Bool
  | .new => true
  | .old => false

/-- The VARIANT bit: `new` 0, `old` 1 (R31). -/
def Variant.toBool : Variant → Bool
  | .new => false
  | .old => true

/-- The variant of a VARIANT bit. -/
def Variant.ofBool : Bool → Variant
  | false => .new
  | true => .old

/-! ### Bytes, words, blocks -/

/-- `LE16(b0, b1) = b0 | (b1 << 8)` (R12, R62). -/
def le16 (b0 b1 : Byte) : Half :=
  b1 ++ b0

/-- The 16-bit little-endian words of a plaintext block (R62). -/
def wordsOf : List Byte → List Half
  | b0 :: b1 :: rest => le16 b0 b1 :: wordsOf rest
  | _ => []

/-- The bytes of words: `P[2i] = w[i][7:0]`, `P[2i+1] = w[i][15:8]` (R62). -/
def bytesOf : List Half → List Byte
  | [] => []
  | w :: ws => w.extractLsb' 0 8 :: w.extractLsb' 8 8 :: bytesOf ws

/-- `zeros(n)` (R212). -/
def zeros (n : Nat) : List Byte :=
  List.replicate n 0

/-- `s[k*size .. min((k+1)*size, |s|))` (R102, R231). -/
def chunk (size : Nat) (s : List Byte) (k : Nat) : List Byte :=
  (s.drop (k * size)).take size

/-- The `n` first chunks, in order. -/
def chunks (size n : Nat) (s : List Byte) : List (List Byte) :=
  (List.range n).map (chunk size s)

/-- `ceil(a/b)`, for `b != 0` (R10). -/
def ceilDiv (a b : Nat) : Nat :=
  (a + b - 1) / b

/-! ### Key slots -/

/-- What one slot of a bank gives a block operation: modulus, multiplier, XOR key. -/
structure SlotKey where
  modulus : Word
  multiplier : Word
  xork : Word
  deriving DecidableEq, Repr

/-- Slots `0..n-1` of three files of a bank. -/
def slotKeys (n : Nat) (modulus multiplier xork : Vector Word 16) : List SlotKey :=
  ((modulus.toList.zip (multiplier.toList.zip xork.toList)).take n).map
    fun k => { modulus := k.1, multiplier := k.2.1, xork := k.2.2 }

/-- What encoding reads: MOD, ENC, XORK of slots `0..N-1` (R153). -/
def encKeys (v : Variant) (bank : KeyBank) : List SlotKey :=
  slotKeys v.slotCount bank.mod bank.enc bank.xork

/-- What decoding reads: MOD, DEC, XORK of slots `0..N-1` (R154). -/
def decKeys (v : Variant) (bank : KeyBank) : List SlotKey :=
  slotKeys v.slotCount bank.mod bank.dec bank.xork

/-- The bank an operand names. -/
def State.bank (s : State) : Bank → KeyBank
  | .txk => s.txk
  | .rxk => s.rxk

/-! ### The register map (R30) -/

/-- The register of a number inside a key bank: file in bits 5:4, slot in bits 3:0 (R40). -/
def keyCsr (bank : Bank) (n : BitVec 12) : Csr :=
  .key bank
    (match n.toNat / 16 % 4 with
      | 0 => .mod
      | 1 => .enc
      | 2 => .dec
      | _ => .xork)
    (n.extractLsb' 0 4).toFin

/-- The register of a number below 0x020. -/
def lowCsr : Nat → Option Csr
  | 0x000 => some .ctrl
  | 0x001 => some .status
  | 0x002 => some .errCode
  | 0x003 => some .errInfo0
  | 0x004 => some .errInfo1
  | 0x005 => some .errPosLo
  | 0x006 => some .errPosHi
  | 0x007 => some .rxCtr
  | 0x008 => some .txCtr
  | 0x009 => some .rxPosLo
  | 0x00A => some .rxPosHi
  | 0x00B => some .txPosLo
  | 0x00C => some .txPosHi
  | 0x00D => some .warnCnt
  | 0x00E => some .rxRemain
  | 0x00F => some .cmd
  | 0x010 => some .blkLen
  | 0x011 => some .blkStatus
  | 0x012 => some .pkSlot
  | 0x013 => some .pkVal
  | _ => none

/-- The register of a number; none where the number is unmapped (R30). -/
def csrOf (n : BitVec 12) : Option Csr :=
  if n.toNat < 0x020 then lowCsr n.toNat
  else if n.toNat < 0x028 then some (.dpb (n.extractLsb' 0 3).toFin)
  else if h : 0x030 ≤ n.toNat ∧ n.toNat < 0x03A then some (.dcb ⟨n.toNat - 0x030, by omega⟩)
  else if 0x100 ≤ n.toNat ∧ n.toNat < 0x140 then some (keyCsr .txk n)
  else if 0x200 ≤ n.toNat ∧ n.toNat < 0x240 then some (keyCsr .rxk n)
  else none

/-! ### Key registers -/

/-- One file of a bank. -/
def KeyBank.file (b : KeyBank) : KeyFile → Vector Word 16
  | .mod => b.mod
  | .enc => b.enc
  | .dec => b.dec
  | .xork => b.xork

/-- One key register. -/
def KeyBank.read (b : KeyBank) (f : KeyFile) (i : Fin 16) : Word :=
  (b.file f)[i]

/-- A bank with one key register written. -/
def KeyBank.write (b : KeyBank) (f : KeyFile) (i : Fin 16) (v : Word) : KeyBank :=
  match f with
  | .mod => { b with mod := b.mod.set i v }
  | .enc => { b with enc := b.enc.set i v }
  | .dec => { b with dec := b.dec.set i v }
  | .xork => { b with xork := b.xork.set i v }

/-! ### The windows (R39) -/

/-- The buffer of `n` bytes that holds the list's bytes from index 0. -/
def bufOf (n : Nat) (bs : List Byte) : Vector Byte n :=
  Vector.ofFn fun k => bs.getD k 0

/-- The buffer with its first bytes replaced: `B[0 .. |bs|) <- bs`, the rest unchanged (R268, R269). -/
def overlay {n : Nat} (b : Vector Byte n) (bs : List Byte) : Vector Byte n :=
  bufOf n (bs ++ b.toList.drop bs.length)

/-- Register `k` of a window: byte `4k + j` in byte lane `j`; bytes that do not exist read 0 (R39, R65). -/
def windowRead {n : Nat} (b : Vector Byte n) (k : Nat) : Word :=
  b.toList.getD (4 * k + 3) 0 ++ b.toList.getD (4 * k + 2) 0 ++ b.toList.getD (4 * k + 1) 0 ++ b.toList.getD (4 * k) 0

/-- A window with register `k` written; bytes that do not exist are ignored (R39, R65). -/
def windowWrite {n : Nat} (b : Vector Byte n) (k : Nat) (v : Word) : Vector Byte n :=
  bufOf n (b.toList.mapIdx fun j x => if j / 4 = k then v.extractLsb' (8 * (j % 4)) 8 else x)

end Sys2Proof.Machine
end

