-- ==== Sys2Proof/Machine/BitPack.lean ====
section
/-!
DEFINITION. The bit-packing codec (40_bitpack.md): helpers R130 to R134, the value permutation R135, PACK18 and UNPACK18
bit by bit (R136, R137), their byte-level form (R138), packAll and unpackAll (R140).
-/

namespace Sys2Proof.Machine

/-! ### Offset helpers -/

/-- R130. -/
def bitIndex (i : Nat) : Nat :=
  18 * i

/-- R131. -/
def byteOffset (i : Nat) : Nat :=
  bitIndex i / 8

/-- R132. -/
def bitOffset (i : Nat) : Nat :=
  bitIndex i % 8

/-- R133. -/
def firstMask (i : Nat) : Byte :=
  0xFF >>> bitOffset i

/-- R134: `(0xFF << (6 - bitOffset(i))) & 0xFF`. -/
def remainderMask (i : Nat) : Byte :=
  0xFF <<< (6 - bitOffset i)

/-! ### The value permutation (R135) -/

/-- `swap18(v) = (v[7:0] << 10) | (v[15:8] << 2) | v[17:16]`. -/
def swap18 (v : Field) : Field :=
  v.extractLsb' 0 8 ++ v.extractLsb' 8 8 ++ v.extractLsb' 16 2

/-- `unswap18(p) = p[17:10] | (p[9:2] << 8) | (p[1:0] << 16)`. -/
def unswap18 (p : Field) : Field :=
  p.extractLsb' 0 2 ++ p.extractLsb' 2 8 ++ p.extractLsb' 10 8

/-! ### A byte buffer as a bit stream (00_scope.md R11) -/

/-- Stream position `pos` is bit `7 - (pos mod 8)` of byte `floor(pos/8)`. -/
def streamBit (bs : List Byte) (pos : Nat) : Bool :=
  (bs.getD (pos / 8) 0).getLsbD (7 - pos % 8)

/-- A byte with one bit replaced. -/
def setBit (x : Byte) (k : Nat) (b : Bool) : Byte :=
  if b then x ||| (1#8 <<< k) else x &&& ~~~(1#8 <<< k)

/-- The buffer with the bit at stream position `pos` replaced. -/
def setStreamBit (bs : List Byte) (pos : Nat) (b : Bool) : List Byte :=
  bs.modify (pos / 8) fun x => setBit x (7 - pos % 8) b

/-! ### PACK18 and UNPACK18 -/

/-- R136. `bs` holds at least `byteOffset(i) + 3` bytes. -/
def pack18 (bs : List Byte) (i : Nat) (v : Word) : List Byte :=
  (List.range 18).foldl
    (fun b k => setStreamBit b (bitIndex i + k) ((swap18 (v.setWidth 18)).getLsbD (17 - k))) bs

/-- R137. `bs` holds at least `byteOffset(i) + 3` bytes. -/
def unpack18 (bs : List Byte) (i : Nat) : Field :=
  unswap18 ((List.range 18).foldl
    (fun p k => (p <<< 1) ||| (BitVec.ofBool (streamBit bs (bitIndex i + k))).setWidth 18) 0)

/-- R138, PACK18 byte by byte with the helpers' masks. -/
def pack18Bytes (bs : List Byte) (i : Nat) (v : Word) : List Byte :=
  let p : Word := (swap18 (v.setWidth 18)).setWidth 32
  let o := byteOffset i
  let b := bitOffset i
  ((bs.modify o fun x => (x &&& ~~~(firstMask i)) ||| (p >>> (10 + b)).setWidth 8).modify
    (o + 1) fun _ => (p >>> (2 + b)).setWidth 8).modify
    (o + 2) fun x => (x &&& ~~~(remainderMask i)) ||| (p <<< (6 - b)).setWidth 8

/-- R138, UNPACK18 byte by byte. -/
def unpack18Bytes (bs : List Byte) (i : Nat) : Field :=
  let o := byteOffset i
  let b := bitOffset i
  let b0 : Word := (bs.getD o 0 &&& firstMask i).setWidth 32
  let b1 : Word := (bs.getD (o + 1) 0).setWidth 32
  let b2 : Word := (bs.getD (o + 2) 0 &&& remainderMask i).setWidth 32
  unswap18 (((b0 <<< (10 + b)) ||| (b1 <<< (2 + b)) ||| (b2 >>> (6 - b))).setWidth 18)

/-! ### All slots (R140) -/

/-- PACK18 of values at slots `i`, `i+1`, ... in order. -/
def packFrom (i : Nat) : List Word → List Byte → List Byte
  | [], bs => bs
  | v :: vs, bs => packFrom (i + 1) vs (pack18 bs i v)

/-- `packAll(N, r)`: into `18*N/8` zero bytes. -/
def packAll (n : Nat) (r : List Word) : List Byte :=
  packFrom 0 (r.take n) (zeros (18 * n / 8))

/-- `unpackAll(N, B)`, each value zero-extended to the 32 bits of a ring register. -/
def unpackAll (n : Nat) (bs : List Byte) : List Word :=
  (List.range n).map fun i => (unpack18 bs i).setWidth 32

end Sys2Proof.Machine
end

