-- ==== Sys2Proof/Config.lean ====
section
/-!
DEFINITION. What a build of SMFC fixes (00_scope.md R7, R9) and the values the spec leaves undefined.
-/

namespace Sys2Proof.Config

/-- `RXBUF_CAP`, the capacity of the assembly buffer: the spec fixes 65535 and lets a model take less (00_scope.md R9,
D18). Log entry 9. -/
def rxbufCap : Nat := 65535

/-- FREE VALUE, log entry 7: what MODMUL gives for a zero modulus. `x mod m` "is defined only for `m != 0`"
(00_scope.md R10) and R150 gives no result there; nothing constrains this value. No block operation reaches it: the key
check of R152 comes first. -/
opaque modByZero (a k : Word) : Word

/-! ### Micro-operations outside the operand domain their rule states

"CSUM: `n` with `0 <= n <= |P|`" (R151), "a byte buffer of at least `byteOffset(i) + 3` bytes" (R136, R137), "a
plaintext block of `blockCap` bytes" (R153), "a ciphertext block of `encBlockSize` bytes" (R154): for other operands the
spec states no result. FREE VALUES, log entry 8; no operation of SMFC passes such an operand. -/

/-- CSUM of more bytes than there are. -/
opaque csumBeyond (p : List Byte) (n : Nat) : Byte

/-- PACK18 into a buffer that does not hold the three bytes of the field. -/
opaque packShort (b : List Byte) (i : BitVec 4) (v : Word) : List Byte

/-- UNPACK18 from a buffer that does not hold the three bytes of the field. -/
opaque unpackShort (b : List Byte) (i : BitVec 4) : Field

/-- The packed region BLK.ENC gives for a block of another size; `keys` are the registers it reads. -/
opaque encOther (keys : List Word) (p : List Byte) (usedLen : Byte) : List Byte

/-- The plaintext bytes BLK.DEC gives for a block of another size. -/
opaque decOther (keys : List Word) (c : List Byte) : List Byte

/-- The two trailer bytes BLK.DEC finds in a block of another size. -/
opaque trailerOther (c : List Byte) : Byte × Byte

end Sys2Proof.Config
end

