-- ==== Sys2Proof/Machine/Flags.lean ====
section
/-!
DEFINITION. The views of 10_state.md: the framer's state (R24), STATUS and CTRL as words (R31, R32), the done levels
(R27, R29), the ready and valid conditions of the stream ports (R22), fault_o (60_exceptions.md R334).
-/

namespace Sys2Proof.Machine

/-! ### The framer's views of RXBUF (R24) -/

/-- RX_STATE of an assembly buffer. -/
def rxStateOf (buf : List Byte) : RxState :=
  if buf.isEmpty then .awaitingHeader
  else if buf.length < hdrLen (buf.getD 0 0) then .awaitingHeader
  else if buf.length < totalLen buf then .awaitingContent
  else .emit

/-- RX_REMAIN of an assembly buffer. -/
def rxRemainOf (buf : List Byte) : Nat :=
  if rxStateOf buf = .awaitingContent then totalLen buf - buf.length else 0

/-- The two bits of STATUS.RX_STATE (R24); the value 3 is never produced. -/
def RxState.code : RxState → BitVec 2
  | .awaitingHeader => 0
  | .awaitingContent => 1
  | .emit => 2

/-- RX_STATE. -/
def State.rxState (s : State) : RxState :=
  rxStateOf s.rxbuf

/-- RX_DONE, the level rx_done (R27). -/
def State.rxDone (s : State) : Bool :=
  s.rxClosed && s.rxbuf.isEmpty && s.outf.isNone

/-- TX_DONE, the level tx_done (R29). -/
def State.txDone (s : State) : Bool :=
  s.txClosed && s.txout.isEmpty

/-- The level fault_o (R334). -/
def State.faultO (s : State) : Bool :=
  s.fault

/-! ### Words of fields -/

/-- One bit at position `k` of a register. -/
def bitAt (k : Nat) (b : Bool) : Word :=
  (BitVec.ofBool b).setWidth 32 <<< k

/-- CTRL as a word; bits 31:4 read 0 (R31). -/
def State.ctrlWord (s : State) : Word :=
  bitAt 0 s.variant.toBool ||| bitAt 1 s.lenient ||| bitAt 2 s.rxEn ||| bitAt 3 s.txEn

/-- STATUS as a word (R32). -/
def State.statusWord (s : State) : Word :=
  bitAt 0 s.fault ||| bitAt 1 (s.warnCnt != 0) ||| bitAt 2 s.rxClosed ||| bitAt 3 s.txClosed
    ||| (s.rxState.code.setWidth 32 <<< 4) ||| bitAt 6 s.outf.isSome ||| bitAt 7 (!s.txout.isEmpty)
    ||| bitAt 8 s.rxDone ||| bitAt 9 s.txDone

/-! ### Enabling conditions -/

/-- RX.BYTE is enabled; port RXB is ready exactly then (R181). -/
def State.rxbReady (s : State) : Bool :=
  s.rxEn && !s.fault && !s.rxClosed && s.rxState != .emit

/-- RX.PROCESS is enabled (R231). -/
def State.rxProcessReady (s : State) : Bool :=
  s.rxEn && !s.fault && s.rxState == .emit && s.outf.isNone

/-- RX.DELIVER is enabled; port RXF is valid exactly then (R238). -/
def State.rxfValid (s : State) : Bool :=
  !s.fault && s.outf.isSome

/-- RX.CLOSE and RX.ABORT are enabled (R191, R192). -/
def State.rxOpen (s : State) : Bool :=
  s.rxEn && !s.fault && !s.rxClosed

/-- TX.FRAME is enabled; port TXF is ready exactly then (R212). -/
def State.txfReady (s : State) : Bool :=
  s.txEn && !s.fault && !s.txClosed && s.txout.isEmpty

/-- TX.BYTE is enabled; port TXB is valid exactly then (R216). -/
def State.txbValid (s : State) : Bool :=
  !s.fault && !s.txout.isEmpty

/-- TX.CLOSE and TX.ABORT are enabled (R217, R218). -/
def State.txOpen (s : State) : Bool :=
  s.txEn && !s.fault && !s.txClosed

/-- The diagnostic commands are enabled (R268). -/
def State.diagReady (s : State) : Bool :=
  !s.fault && !s.rxEn && !s.txEn

end Sys2Proof.Machine
end

