-- ==== Sys2Proof/Machine/Ops.lean ====
section
/-!
DEFINITION. The shared operations over the state: fault entry (60_exceptions.md R330) and the exits from the halted
state beside it (R332), the answer of a step, the register port's reads (45_system_ops.md R260).
-/

namespace Sys2Proof.Machine

/-- The three outcomes of a step of this machine. -/
abbrev Result : Type :=
  Host.Outcome State Fault Refusal

/-! ### The answer of a step -/

/-- The state with the answer of the step that ends in it (log entry 4). -/
def State.respond (s : State) (r : Response) : State :=
  { s with resp := r }

/-- A step that is not enabled: nothing happens (00_scope.md R13, 93 U33; log entry 3). -/
def notReady (s : State) : Result :=
  .next (s.respond .notReady)

/-! ### Fault entry and the exits from the halted state -/

/-- The code of a cause (60_exceptions.md R321). -/
def Cause.code : Cause → Byte
  | .invalidPacketHeader => 1
  | .invalidBlockSize => 2
  | .invalidBlockChecksum => 3
  | .invalidPacketCounter => 4
  | .contentLength => 5
  | .invalidKey => 6

/-- `code(X) | (DIR << 8)` (R330). -/
def errCodeWord (dir : Dir) (c : Cause) : Word :=
  c.code.setWidth 32 ||| bitAt 8 (dir == .tx)

/-- Fault entry (R330). The state given is the one before the faulting step. -/
def State.takeFault (s : State) (dir : Dir) (x : Raised) : State :=
  { s with
    fault := true
    errCode := errCodeWord dir x.cause
    errInfo0 := x.info0
    errInfo1 := x.info1
    errPos := match dir with
      | .rx => s.rxPos
      | .tx => s.txPos
    rxbuf := []
    outf := none
    txout := [] }

/-- A step that raises: fault entry, and the answer says so. -/
def State.faulted (s : State) (dir : Dir) (x : Raised) : State :=
  (s.takeFault dir x).respond .faulted

/-- CMD.CONN_RESET, one of the two exits (R265, R332): column "after CMD.CONN_RESET" of 10_state.md R46. The other
exit is `State.hardReset`. -/
def State.connReset (s : State) : State :=
  { s with
    rxEn := false
    txEn := false
    rxCtr := 0
    txCtr := 0
    rxbuf := []
    outf := none
    rxPos := 0
    rxClosed := false
    txout := []
    txPos := 0
    txClosed := false
    fault := false
    errCode := 0
    errInfo0 := 0
    errInfo1 := 0
    errPos := 0
    warnCnt := 0 }

/-- RESET (R360): column "after RESET" of 10_state.md R46. The offers of the outside parties are no state of SMFC and
stay (R20, log entry 1). -/
def State.hardReset (s : State) : State :=
  { State.reset with sched := s.sched }

/-! ### Reading registers (R260) -/

/-- `v <- value of register`; the only write-only register, CMD, reads 0 (R37). -/
def State.readCsr (s : State) : Csr → Word
  | .ctrl => s.ctrlWord
  | .status => s.statusWord
  | .errCode => s.errCode
  | .errInfo0 => s.errInfo0
  | .errInfo1 => s.errInfo1
  | .errPosLo => s.errPos.extractLsb' 0 32
  | .errPosHi => s.errPos.extractLsb' 32 32
  | .rxCtr => s.rxCtr.setWidth 32
  | .txCtr => s.txCtr.setWidth 32
  | .rxPosLo => s.rxPos.extractLsb' 0 32
  | .rxPosHi => s.rxPos.extractLsb' 32 32
  | .txPosLo => s.txPos.extractLsb' 0 32
  | .txPosHi => s.txPos.extractLsb' 32 32
  | .warnCnt => s.warnCnt
  | .rxRemain => BitVec.ofNat 32 (rxRemainOf s.rxbuf)
  | .cmd => 0
  | .blkLen => s.blkLen.setWidth 32
  | .blkStatus => s.blkStatus
  | .pkSlot => s.pkSlot.setWidth 32
  | .pkVal => s.pkVal.setWidth 32
  | .dpb k => windowRead s.dpb k
  | .dcb k => windowRead s.dcb k
  | .key bank file slot => (s.bank bank).read file slot

/-- The value CSR.RD gives: 0 for an unmapped number (R260, R30). -/
def State.readNumber (s : State) (n : BitVec 12) : Word :=
  match csrOf n with
  | some r => s.readCsr r
  | none => 0

end Sys2Proof.Machine
end

