-- ==== Sys2Proof/Machine/BlockCodec.lean ====
section
/-!
DEFINITION. The block cipher codec (41_block_codec.md): MODMUL, CSUM, the key check, BLK.ENC and BLK.DEC as pure
functions. The word and ring registers of 10_state.md R42 are their local lists.
-/

namespace Sys2Proof.Machine

/-- `BLOCK_SIZE_XOR_KEY` (30_encoding.md R96). -/
def blockSizeXorKey : Byte := 0x3D

/-- `BLOCK_CHECKSUM_XOR_KEY` (R96). -/
def blockChecksumXorKey : Byte := 0xF8

/-- R150: `(zext_64(a) * zext_64(k)) mod zext_64(m)`. For `m = 0` the spec gives no result: a free value (log entry 7). -/
def modmul (a k m : Word) : Word :=
  if m = 0 then Config.modByZero a k
  else ((a.setWidth 64 * k.setWidth 64) % m.setWidth 64).setWidth 32

/-- R151: `0xF8` XOR the fold of the first `n` bytes. -/
def csum (p : List Byte) (n : Nat) : Byte :=
  (p.take n).foldl (· ^^^ ·) blockChecksumXorKey

/-- The lowest slot with a zero modulus, counted from `i`. -/
def firstZeroFrom (i : Nat) : List SlotKey → Option Nat
  | [] => none
  | k :: ks => if k.modulus = 0 then some i else firstZeroFrom (i + 1) ks

/-- R152: the key check; `InvalidKey(i, 0)` with the lowest failing slot below N. -/
def checkKeys (keys : List SlotKey) : Except Raised Unit :=
  match firstZeroFrom 0 keys with
  | some i => .error ⟨.invalidKey, BitVec.ofNat 32 i, 0⟩
  | none => .ok ()

/-! ### Encode (R153) -/

/-- The product loop; `prev` is the product of the slot before (0 for slot 0). -/
def mulStage (prev : Word) : List SlotKey → List Half → List Word
  | k :: ks, w :: ws =>
    let r := modmul (k.xork ^^^ (w ^^^ prev.setWidth 16).setWidth 32) k.multiplier k.modulus
    r :: mulStage r ks ws
  | _, _ => []

/-- The fold, `i` ascending: each `r[i]` takes the un-folded `r[i+1]`; the last is never folded. -/
def foldStage : List SlotKey → List Word → List Word
  | k :: ks, r :: r' :: rs => (r ^^^ k.xork ^^^ (r' &&& 0xFFFF)) :: foldStage ks (r' :: rs)
  | _, rs => rs

/-- The ring registers after the fold. -/
def encRing (keys : List SlotKey) (p : List Byte) : List Word :=
  foldStage keys (mulStage 0 keys (wordsOf p))

/-- R153: `BLK.ENC(bank, P, usedLen)`. `p` has `blockCap` bytes. Where the size and a modulus both fail, the size fault is
raised, in the order of R153's pseudocode, although R152 has the key check "first": log entry 20, DEDUCED. -/
def blkEnc (v : Variant) (bank : KeyBank) (p : List Byte) (usedLen : Byte) : Except Raised (List Byte) :=
  if v.blockCap < usedLen.toNat then .error ⟨.invalidBlockSize, usedLen.setWidth 32, 0⟩
  else
    match checkKeys (encKeys v bank) with
    | .error x => .error x
    | .ok _ =>
      let c := csum p usedLen.toNat
      .ok (packAll v.slotCount (encRing (encKeys v bank) p) ++ [usedLen ^^^ blockSizeXorKey ^^^ c, c])

/-! ### Decode (R154) -/

/-- The un-fold, `i` descending: each `r[i-1]` takes the already un-folded `r[i]`. -/
def unfoldStage : List SlotKey → List Word → List Word
  | k :: ks, r :: rs =>
    match unfoldStage ks rs with
    | [] => [r]
    | r' :: rs' => (r ^^^ k.xork ^^^ (r' &&& 0xFFFF)) :: r' :: rs'
  | _, rs => rs

/-- The word loop; `prev` is the ring value of the slot before, low 16 bits (0 for slot 0). -/
def wordStage (prev : Word) : List SlotKey → List Word → List Half
  | k :: ks, r :: rs =>
    ((k.xork ^^^ modmul r k.multiplier k.modulus) ^^^ prev).setWidth 16 :: wordStage (r &&& 0xFFFF) ks rs
  | _, _ => []

/-- The plaintext bytes of a ciphertext block. -/
def decPlain (v : Variant) (bank : KeyBank) (c : List Byte) : List Byte :=
  let keys := decKeys v bank
  bytesOf (wordStage 0 keys (unfoldStage keys (unpackAll v.slotCount c)))

/-- The results of BLK.DEC. -/
structure Decoded where
  plain : List Byte
  usedLen : Byte
  warned : Bool
  deriving DecidableEq, Repr

/-- The trailer checks (R100, R113, R154): size before checksum. -/
def checkTrailer (v : Variant) (p : List Byte) (t0 t1 : Byte) (lenient : Bool) : Except Raised Decoded :=
  let usedLen := t0 ^^^ t1 ^^^ blockSizeXorKey
  let c := csum p usedLen.toNat
  if v.blockCap < usedLen.toNat then .error ⟨.invalidBlockSize, usedLen.setWidth 32, 0⟩
  else if c = t1 then .ok ⟨p, usedLen, false⟩
  else if lenient then .ok ⟨p, usedLen, true⟩
  else .error ⟨.invalidBlockChecksum, (c ++ t1).setWidth 32, 0⟩

/-- R154: `BLK.DEC(bank, C, lenient)`. `c` has `encBlockSize` bytes. -/
def blkDec (v : Variant) (bank : KeyBank) (c : List Byte) (lenient : Bool) : Except Raised Decoded :=
  match checkKeys (decKeys v bank) with
  | .error x => .error x
  | .ok _ =>
    checkTrailer v (decPlain v bank c) (c.getD (v.encBlockSize - 2) 0) (c.getD (v.encBlockSize - 1) 0) lenient

end Sys2Proof.Machine
end

