-- ==== Sys2Proof/Machine/Encryptor.lean ====
section
/-!
DEFINITION. The stream encryptor (43_stream_encryptor.md): TX.FRAME (R212), TX.BYTE (R216), TX.CLOSE (R217), TX.ABORT
(R218).
-/

namespace Sys2Proof.Machine

/-- The ContentLength fault with its sub-cause (60_exceptions.md R326). -/
def contentLengthFault (len : Nat) (sub : Word) : Raised :=
  ⟨.contentLength, BitVec.ofNat 32 len, sub⟩

/-- R211: validation of TXIN, in order. -/
def validateTx (f : List Byte) : Except Raised Unit :=
  match f with
  | [] => .error (contentLengthFault 0 5)
  | t :: _ =>
    if !isRecognized t then .error ⟨.invalidPacketHeader, t.setWidth 32, 0⟩
    else if f.length < hdrLen t ∨ totalLen f ≠ f.length then .error (contentLengthFault f.length 5)
    else .ok ()

/-- R102: the logical plaintext stream of a cipher-qualifying frame. -/
def logicalStream (v : Variant) (ctr : Byte) (content : List Byte) : List Byte :=
  if v.usesCounter then ctr :: content else content

/-- R214: the chunk followed by zero bytes. -/
def paddedBlock (v : Variant) (c : List Byte) : List Byte :=
  c ++ zeros (v.blockCap - c.length)

/-- The block loop of R212: BLK.ENC of each chunk, in order. -/
def encBlocks (v : Variant) (bank : KeyBank) : List (List Byte) → Except Raised (List Byte)
  | [] => .ok []
  | c :: cs =>
    match blkEnc v bank (paddedBlock v c) (BitVec.ofNat 8 c.length) with
    | .error x => .error x
    | .ok out =>
      match encBlocks v bank cs with
      | .error x => .error x
      | .ok rest => .ok (out ++ rest)

/-- The counter after a frame in a variant: `(c + 1) mod 256` where the variant uses it (R34). -/
def nextCounter (v : Variant) (ctr : Byte) : Byte :=
  if v.usesCounter then ctr + 1 else ctr

/-- The enciphering of a validated cipher-qualifying frame (R212): result and counter after. Length before key. -/
def encryptContent (v : Variant) (bank : KeyBank) (ctr t : Byte) (content : List Byte) :
    Except Raised (List Byte × Byte) :=
  let s := logicalStream v ctr content
  let nb := ceilDiv s.length v.blockCap
  let total := hdrLen t + nb * v.encBlockSize
  if 65535 < total then .error (contentLengthFault total 2)
  else
    match checkKeys (encKeys v bank) with
    | .error x => .error x
    | .ok _ =>
      match encBlocks v bank (chunks v.blockCap nb s) with
      | .error x => .error x
      | .ok out => .ok (makeHeader t total ++ out, nextCounter v ctr)

/-- The whole of TX.FRAME on a frame: what TXOUT and TX_CTR become, or the fault (R212). -/
def encryptFrame (v : Variant) (bank : KeyBank) (ctr : Byte) (f : List Byte) : Except Raised (List Byte × Byte) :=
  match validateTx f with
  | .error x => .error x
  | .ok _ =>
    let t := f.getD 0 0
    if isCipher t then encryptContent v bank ctr t (f.drop (hdrLen t)) else .ok (f, ctr)

/-- TX.FRAME (R212). -/
def execTxFrame (txin : List Byte) (s : State) : Result :=
  if s.txfReady then
    match encryptFrame s.variant s.txk s.txCtr txin with
    | .ok (out, ctr) => .next { s with txout := out, txCtr := ctr, resp := .done }
    | .error x => .next (s.faulted .tx x)
  else notReady s

/-- TX.BYTE (R216). -/
def execTxByte (s : State) : Result :=
  if s.fault then notReady s
  else
    match s.txout with
    | [] => notReady s
    | b :: rest => .next { s with txout := rest, txPos := s.txPos + 1, resp := .byte b }

/-- TX.CLOSE (R217). -/
def execTxClose (s : State) : Result :=
  if s.txOpen then .next { s with txClosed := true, resp := .done } else notReady s

/-- TX.ABORT (R218). -/
def execTxAbort (s : State) : Result :=
  if s.txOpen then .next { s with txClosed := true, txout := [], resp := .done } else notReady s

end Sys2Proof.Machine
end

