-- ==== Sys2Proof/Machine/Framer.lean ====
section
/-!
DEFINITION. The packet framer (42_framer.md): RX.BYTE (R181), RX.CLOSE (R191), RX.ABORT (R192), and bytes that arrive
together (30_encoding.md R121).
-/

namespace Sys2Proof.Machine

/-- The checks and the append of RX.BYTE (R181 to R186) for a buffer of capacity `cap`: type byte first; then, when the
header completes, total < hdrLen; then total > capacity (60_exceptions.md R333). -/
def acceptByte (cap : Nat) (buf : List Byte) (b : Byte) : Except Raised (List Byte) :=
  if buf.isEmpty && !isRecognized b then .error ⟨.invalidPacketHeader, b.setWidth 32, 0⟩
  else
    let buf' := buf ++ [b]
    if buf'.length = hdrLen (buf'.getD 0 0) then
      if totalLen buf' < hdrLen (buf'.getD 0 0) then
        .error ⟨.contentLength, BitVec.ofNat 32 (totalLen buf'), 3⟩
      else if cap < totalLen buf' then
        .error ⟨.contentLength, BitVec.ofNat 32 (totalLen buf'), 2⟩
      else .ok buf'
    else .ok buf'

/-- RX.BYTE, enabled (R181). -/
def rxAccept (b : Byte) (s : State) : State :=
  match acceptByte Config.rxbufCap s.rxbuf b with
  | .ok buf => { s with rxbuf := buf, resp := .done }
  | .error x => s.faulted .rx x

/-- RX.BYTE (R181). -/
def execRxByte (b : Byte) (s : State) : Result :=
  if s.rxbReady then .next (rxAccept b s) else notReady s

/-- `rx.bytes` (R121): RX.BYTE for each byte in order; if one faults the rest are not performed, and where RXB is not
ready the rest stay with the transport (R183; log entry 6). -/
def rxFeed : List Byte → State → State
  | [], s => s.respond .done
  | b :: bs, s =>
    if s.rxbReady then
      let s' := rxAccept b s
      if s'.fault then s' else rxFeed bs s'
    else s.respond (.stalled (b :: bs))

/-- RX.CLOSE (R191): a partial frame is discarded, a complete one stays. -/
def execRxClose (s : State) : Result :=
  if s.rxOpen then
    .next { s with
      rxClosed := true
      rxbuf := if s.rxState = .emit then s.rxbuf else []
      resp := .done }
  else notReady s

/-- RX.ABORT (R192). -/
def execRxAbort (s : State) : Result :=
  if s.rxOpen then .next { s with rxClosed := true, rxbuf := [], outf := none, resp := .done }
  else notReady s

end Sys2Proof.Machine
end

