-- ==== Sys2Proof/Machine/Decryptor.lean ====
section
/-!
DEFINITION. The stream decryptor (44_stream_decryptor.md): RX.PROCESS (R231), RX.DELIVER (R238), and the wire frames as
whole instructions of the RX path (42_framer.md R187 to R190, `rx.frame` of 30_encoding.md R121).
-/

namespace Sys2Proof.Machine

/-- R234, R235: a size or checksum fault of block `k` records `k` as info1. -/
def Raised.atBlock (x : Raised) (k : Nat) : Raised :=
  match x.cause with
  | .invalidBlockSize | .invalidBlockChecksum => { x with info1 := BitVec.ofNat 32 k }
  | _ => x

/-- R233, R236: the checks between block 0 and block 1 in variant `new`: a counter byte is there, and it equals
RX_CTR. -/
def checkCounter (v : Variant) (ctr : Byte) (k : Nat) (d : Decoded) : Except Raised Unit :=
  if v.usesCounter ∧ k = 0 then
    if d.usedLen = 0 then .error (contentLengthFault 0 4)
    else if d.plain.getD 0 0 ≠ ctr then
      .error ⟨.invalidPacketCounter, (ctr ++ d.plain.getD 0 0).setWidth 32, 0⟩
    else .ok ()
  else .ok ()

/-- The block loop of R231 from block `k` on: the bytes recovered and the number of tolerated mismatches. -/
def decBlocks (v : Variant) (bank : KeyBank) (ctr : Byte) (lenient : Bool) :
    Nat → List (List Byte) → Except Raised (List Byte × Nat)
  | _, [] => .ok ([], 0)
  | k, c :: cs =>
    match blkDec v bank c lenient with
    | .error x => .error (x.atBlock k)
    | .ok d =>
      match checkCounter v ctr k d with
      | .error x => .error x
      | .ok _ =>
        match decBlocks v bank ctr lenient (k + 1) cs with
        | .error x => .error x
        | .ok (rest, warns) =>
          .ok (d.plain.take d.usedLen.toNat ++ rest, (if d.warned then 1 else 0) + warns)

/-- The deciphering of an enciphered content (R231 to R236): the frame, the counter after, the warnings. -/
def decryptContent (v : Variant) (bank : KeyBank) (ctr : Byte) (lenient : Bool) (t : Byte) (e : List Byte) :
    Except Raised (List Byte × Byte × Nat) :=
  let nb := e.length / v.encBlockSize
  if e.length % v.encBlockSize ≠ 0 then .error (contentLengthFault e.length 1)
  else if v.usesCounter ∧ nb = 0 then .error (contentLengthFault 0 4)
  else
    match checkKeys (decKeys v bank) with
    | .error x => .error x
    | .ok _ =>
      match decBlocks v bank ctr lenient 0 (chunks v.encBlockSize nb e) with
      | .error x => .error x
      | .ok (s, warns) =>
        let s' := if v.usesCounter then s.drop 1 else s
        .ok (makeHeader t (hdrLen t + s'.length) ++ s', nextCounter v ctr, warns)

/-- The decoding of RX.PROCESS on the frame in RXBUF (R231). -/
def decryptFrame (v : Variant) (bank : KeyBank) (ctr : Byte) (lenient : Bool) (f : List Byte) :
    Except Raised (List Byte × Byte × Nat) :=
  let t := f.getD 0 0
  if isCipher t then decryptContent v bank ctr lenient t (f.drop (hdrLen t)) else .ok (f, ctr, 0)

/-- `min(WARN_CNT + warns, 0xFFFFFFFF)` (R237). -/
def addWarnings (c : Word) (warns : Nat) : Word :=
  BitVec.ofNat 32 (min (c.toNat + warns) 0xFFFFFFFF)

/-- RX.PROCESS (R231). -/
def rxProcess (s : State) : State :=
  if s.rxProcessReady then
    match decryptFrame s.variant s.rxk s.rxCtr s.lenient s.rxbuf with
    | .ok (g, ctr, warns) =>
      { s with
        outf := some g
        rxbuf := []
        rxCtr := ctr
        rxPos := s.rxPos + BitVec.ofNat 64 s.rxbuf.length
        warnCnt := addWarnings s.warnCnt warns
        resp := .processed warns }
    | .error x => s.faulted .rx x
  else s.respond .notReady

/-- RX.PROCESS as an instruction. -/
def execRxProcess (s : State) : Result :=
  .next (rxProcess s)

/-- RX.DELIVER (R238). -/
def execRxDeliver (s : State) : Result :=
  if s.fault then notReady s
  else
    match s.outf with
    | none => notReady s
    | some g => .next { s with outf := none, resp := .bytes g }

/-! ### The wire frames as instructions -/

/-- `rx.frame bytes` (R121): the bytes, then RX.PROCESS. If a byte faults, or RXB stops being ready, nothing after it is
performed; if OUTF is full, the complete frame waits in RXBUF (R231). Log entry 5. -/
def rxFrame (bytes : List Byte) (s : State) : State :=
  let s' := rxFeed bytes s
  if s'.resp = .done then rxProcess s' else s'

/-- FRAME.C1 (R187). -/
def execFrameC1 (len : Byte) (content : List Byte) (s : State) : Result :=
  .next (rxFrame (shortFrame 0xC1 len content) s)

/-- FRAME.C2 (R188). -/
def execFrameC2 (len : Half) (content : List Byte) (s : State) : Result :=
  .next (rxFrame (longFrame 0xC2 len content) s)

/-- FRAME.C3 (R189). -/
def execFrameC3 (len : Half) (content : List Byte) (s : State) : Result :=
  .next (rxFrame (longFrame 0xC3 len content) s)

/-- FRAME.C4 (R190). -/
def execFrameC4 (len : Half) (content : List Byte) (s : State) : Result :=
  .next (rxFrame (longFrame 0xC4 len content) s)

end Sys2Proof.Machine
end

