-- ==== Sys2Proof/Machine/Micro.lean ====
section
/-!
DEFINITION. The micro-operations as instructions (30_encoding.md R122, format MICRO): pure functions of their operands
that "read and write no SMFC state of their own" (40_bitpack.md); their result is the answer of the step. A block
operation reads the bank its operand names and the variant in force (41_block_codec.md). Log entry 8. They have no
enabling condition and answer in every state, the halted one included, of which 60_exceptions.md R331 lists the steps of
the ports only: log entry 19, DESIGN CHOICE.
-/

namespace Sys2Proof.Machine

/-- MODMUL(a, k, m) (R150). Halted or not: log entry 19. -/
def execModmul (a k m : Word) (s : State) : Result :=
  .next (s.respond (.word (modmul a k m)))

/-- CSUM(P, n) (R151); beyond `|P|` a free value. -/
def csumOperand (p : List Byte) (n : Nat) : Byte :=
  if n ≤ p.length then csum p n else Config.csumBeyond p n

/-- CSUM(P, n) as an instruction. Halted or not: log entry 19. -/
def execCsum (p : List Byte) (n : Nat) (s : State) : Result :=
  .next (s.respond (.byte (csumOperand p n)))

/-- PACK18(B, i, v) (R136); for a buffer of fewer than `byteOffset(i) + 3` bytes a free value. Halted or not: log
entry 19. -/
def execPack18 (b : List Byte) (i : BitVec 4) (v : Word) (s : State) : Result :=
  .next (s.respond (.bytes
    (if byteOffset i.toNat + 3 ≤ b.length then pack18 b i.toNat v else Config.packShort b i v)))

/-- UNPACK18(B, i) (R137); for a buffer of fewer than `byteOffset(i) + 3` bytes a free value. Halted or not: log
entry 19. -/
def execUnpack18 (b : List Byte) (i : BitVec 4) (s : State) : Result :=
  .next (s.respond (.field
    (if byteOffset i.toNat + 3 ≤ b.length then unpack18 b i.toNat else Config.unpackShort b i)))

/-- The key registers a block operation reads, as one list. -/
def keyWords (keys : List SlotKey) : List Word :=
  keys.flatMap fun k => [k.modulus, k.multiplier, k.xork]

/-- BLK.ENC of a block that has not `blockCap` bytes: the checks of R153 stand in their order (log entry 20), the packed
region is a free value, the trailer is computed as R153 says. -/
def blkEncOther (v : Variant) (bank : KeyBank) (p : List Byte) (usedLen : Byte) : Except Raised (List Byte) :=
  if v.blockCap < usedLen.toNat then .error ⟨.invalidBlockSize, usedLen.setWidth 32, 0⟩
  else
    match checkKeys (encKeys v bank) with
    | .error x => .error x
    | .ok _ =>
      let c := csumOperand p usedLen.toNat
      .ok (Config.encOther (keyWords (encKeys v bank)) p usedLen ++ [usedLen ^^^ blockSizeXorKey ^^^ c, c])

/-- BLK.DEC of a block that has not `encBlockSize` bytes: the key check of R154 stands, the plaintext bytes and the
trailer bytes are free values, the trailer checks are made on them. -/
def blkDecOther (v : Variant) (bank : KeyBank) (c : List Byte) (lenient : Bool) : Except Raised Decoded :=
  match checkKeys (decKeys v bank) with
  | .error x => .error x
  | .ok _ =>
    checkTrailer v (Config.decOther (keyWords (decKeys v bank)) c) (Config.trailerOther c).1 (Config.trailerOther c).2
      lenient

/-- What BLK.ENC answers. -/
def encAnswer : Except Raised (List Byte) → Response
  | .ok c => .bytes c
  | .error x => .raised x

/-- What BLK.DEC answers. -/
def decAnswer : Except Raised Decoded → Response
  | .ok d => .block d.plain d.usedLen d.warned
  | .error x => .raised x

/-- BLK.ENC(bank, P, usedLen) (R153). Halted or not: log entry 19. -/
def execBlkEnc (bank : Bank) (p : List Byte) (usedLen : Byte) (s : State) : Result :=
  .next (s.respond (encAnswer
    (if p.length = s.variant.blockCap then blkEnc s.variant (s.bank bank) p usedLen
    else blkEncOther s.variant (s.bank bank) p usedLen)))

/-- BLK.DEC(bank, C, lenient) (R154). Halted or not: log entry 19. -/
def execBlkDec (bank : Bank) (c : List Byte) (lenient : Bool) (s : State) : Result :=
  .next (s.respond (decAnswer
    (if c.length = s.variant.encBlockSize then blkDec s.variant (s.bank bank) c lenient
    else blkDecOther s.variant (s.bank bank) c lenient)))

end Sys2Proof.Machine
end

