-- ==== Sys2Proof/Machine/System.lean ====
section
/-!
DEFINITION. The register port (45_system_ops.md): CSR.RD (R260), CSR.WR (R261, R262), the eight commands (R264 to R271),
RESET (R360).
-/

namespace Sys2Proof.Machine

/-! ### Commands -/

/-- CMD.NOP (R264). -/
def commandNop (s : State) : State :=
  s

/-- A command that is accepted only while FAULT = 0 (R263, R266). -/
def unlessHalted (f : State → State) (s : State) : State :=
  if s.fault then s else f s

/-- A diagnostic command: ignored, BLK_STATUS unchanged, unless FAULT = 0 and both paths are disabled (R268, R378). -/
def whenDiag (f : State → State) (s : State) : State :=
  if s.diagReady then f s else s

/-- CMD.RX_CTR_RESET (R266). -/
def commandRxCtrReset (s : State) : State :=
  unlessHalted (fun s => { s with rxCtr := 0 }) s

/-- CMD.TX_CTR_RESET (R267). -/
def commandTxCtrReset (s : State) : State :=
  unlessHalted (fun s => { s with txCtr := 0 }) s

/-- `code(X) | (info0[15:0] << 16)` (R268). -/
def diagStatus (x : Raised) : Word :=
  x.cause.code.setWidth 32 ||| ((x.info0.setWidth 16).setWidth 32 <<< 16)

/-- CMD.BLK_ENC (R268); the order of its two faults is BLK.ENC's, log entry 20. -/
def commandBlkEnc (s : State) : State :=
  whenDiag (fun s =>
    match blkEnc s.variant s.txk (s.dpb.toList.take s.variant.blockCap) s.blkLen with
    | .ok c => { s with dcb := overlay s.dcb c, blkStatus := 0 }
    | .error x => { s with blkStatus := diagStatus x }) s

/-- CMD.BLK_DEC (R269). -/
def commandBlkDec (s : State) : State :=
  whenDiag (fun s =>
    match blkDec s.variant s.rxk (s.dcb.toList.take s.variant.encBlockSize) s.lenient with
    | .ok d => { s with dpb := overlay s.dpb d.plain, blkLen := d.usedLen, blkStatus := bitAt 8 d.warned }
    | .error x => { s with blkStatus := diagStatus x }) s

/-- CMD.PACK18 (R270). -/
def commandPack18 (s : State) : State :=
  whenDiag (fun s =>
    { s with dcb := bufOf 38 (pack18 s.dcb.toList s.pkSlot.toNat (s.pkVal.setWidth 32)), blkStatus := 0 }) s

/-- CMD.UNPACK18 (R271). -/
def commandUnpack18 (s : State) : State :=
  whenDiag (fun s => { s with pkVal := unpack18 s.dcb.toList s.pkSlot.toNat, blkStatus := 0 }) s

/-- The command of a code written to CMD; reserved codes do nothing (R110, R111, R261). -/
def command (code : Byte) (s : State) : State :=
  if code = 0x00 then commandNop s
  else if code = 0x01 then s.connReset
  else if code = 0x02 then commandRxCtrReset s
  else if code = 0x03 then commandTxCtrReset s
  else if code = 0x10 then commandBlkEnc s
  else if code = 0x11 then commandBlkDec s
  else if code = 0x12 then commandPack18 s
  else if code = 0x13 then commandUnpack18 s
  else s

/-- CMD.NOP. -/
def execCmdNop (s : State) : Result :=
  .next ((commandNop s).respond .done)

/-- CMD.CONN_RESET (R265). -/
def execCmdConnReset (s : State) : Result :=
  .next (s.connReset.respond .done)

/-- CMD.RX_CTR_RESET. -/
def execCmdRxCtrReset (s : State) : Result :=
  .next ((commandRxCtrReset s).respond .done)

/-- CMD.TX_CTR_RESET. -/
def execCmdTxCtrReset (s : State) : Result :=
  .next ((commandTxCtrReset s).respond .done)

/-- CMD.BLK_ENC. -/
def execCmdBlkEnc (s : State) : Result :=
  .next ((commandBlkEnc s).respond .done)

/-- CMD.BLK_DEC. -/
def execCmdBlkDec (s : State) : Result :=
  .next ((commandBlkDec s).respond .done)

/-- CMD.PACK18. -/
def execCmdPack18 (s : State) : Result :=
  .next ((commandPack18 s).respond .done)

/-- CMD.UNPACK18. -/
def execCmdUnpack18 (s : State) : Result :=
  .next ((commandUnpack18 s).respond .done)

/-! ### Register writes -/

/-- R262: the write to CTRL; the lock is judged on the values before the write. -/
def writeCtrl (s : State) (v : Word) : State :=
  let unlocked := !s.rxEn && !s.txEn
  { s with
    variant := if unlocked then Variant.ofBool (v.getLsbD 0) else s.variant
    lenient := if unlocked then v.getLsbD 1 else s.lenient
    rxEn := s.rxEn || v.getLsbD 2
    txEn := s.txEn || v.getLsbD 3 }

/-- R261: a key register is written only while its path is disabled. -/
def writeKey (s : State) (bank : Bank) (file : KeyFile) (slot : Fin 16) (v : Word) : State :=
  match bank with
  | .txk => if s.txEn then s else { s with txk := s.txk.write file slot v }
  | .rxk => if s.rxEn then s else { s with rxk := s.rxk.write file slot v }

/-- R261, the case of each mapped register; the read-only ones ignore the write. BLK_STATUS is one of them, as R30 and
R261 have it, although 10_state.md R38 says "written by the host at any time" of it too: log entry 18, DEDUCED. -/
def writeCsr (s : State) (r : Csr) (v : Word) : State :=
  match r with
  | .ctrl => writeCtrl s v
  | .cmd => command (v.setWidth 8) s
  | .rxCtr => if s.rxEn then s else { s with rxCtr := v.setWidth 8 }
  | .txCtr => if s.txEn then s else { s with txCtr := v.setWidth 8 }
  | .blkLen => { s with blkLen := v.setWidth 8 }
  | .pkSlot => { s with pkSlot := v.setWidth 4 }
  | .pkVal => { s with pkVal := v.setWidth 18 }
  | .dpb k => { s with dpb := windowWrite s.dpb k v }
  | .dcb k => { s with dcb := windowWrite s.dcb k v }
  | .key bank file slot => writeKey s bank file slot v
  | .status | .errCode | .errInfo0 | .errInfo1 | .errPosLo | .errPosHi => s
  | .rxPosLo | .rxPosHi | .txPosLo | .txPosHi | .warnCnt | .rxRemain | .blkStatus => s

/-- The write of a register number; an unmapped number ignores it (R30, R261). -/
def writeNumber (s : State) (n : BitVec 12) (v : Word) : State :=
  match csrOf n with
  | some r => writeCsr s r v
  | none => s

/-- CSR.RD(n) (R260). -/
def execCsrRd (n : BitVec 12) (s : State) : Result :=
  .next (s.respond (.word (s.readNumber n)))

/-- CSR.WR(n, v) (R261). -/
def execCsrWr (n : BitVec 12) (v : Word) (s : State) : Result :=
  .next ((writeNumber s n v).respond .done)

/-! ### Reset -/

/-- RESET (R360). -/
def execReset (s : State) : Result :=
  .next (s.hardReset.respond .done)

end Sys2Proof.Machine
end

