-- ==== Sys2Proof/Machine/Dispatch.lean ====
section
/-!
DEFINITION. `exec`: one arm for each constructor of Instr.
-/

namespace Sys2Proof.Machine

def exec (i : Instr) (s : State) : Host.Outcome State Fault Refusal :=
  match i with
  | .frameC1 len content => Sys2Proof.Machine.execFrameC1 len content s
  | .frameC2 len content => Sys2Proof.Machine.execFrameC2 len content s
  | .frameC3 len content => Sys2Proof.Machine.execFrameC3 len content s
  | .frameC4 len content => Sys2Proof.Machine.execFrameC4 len content s
  | .cmdNop => Sys2Proof.Machine.execCmdNop s
  | .cmdConnReset => Sys2Proof.Machine.execCmdConnReset s
  | .cmdRxCtrReset => Sys2Proof.Machine.execCmdRxCtrReset s
  | .cmdTxCtrReset => Sys2Proof.Machine.execCmdTxCtrReset s
  | .cmdBlkEnc => Sys2Proof.Machine.execCmdBlkEnc s
  | .cmdBlkDec => Sys2Proof.Machine.execCmdBlkDec s
  | .cmdPack18 => Sys2Proof.Machine.execCmdPack18 s
  | .cmdUnpack18 => Sys2Proof.Machine.execCmdUnpack18 s
  | .csrRd n => Sys2Proof.Machine.execCsrRd n s
  | .csrWr n v => Sys2Proof.Machine.execCsrWr n v s
  | .rxByte b => Sys2Proof.Machine.execRxByte b s
  | .rxProcess => Sys2Proof.Machine.execRxProcess s
  | .rxDeliver => Sys2Proof.Machine.execRxDeliver s
  | .rxClose => Sys2Proof.Machine.execRxClose s
  | .rxAbort => Sys2Proof.Machine.execRxAbort s
  | .txFrame txin => Sys2Proof.Machine.execTxFrame txin s
  | .txByte => Sys2Proof.Machine.execTxByte s
  | .txClose => Sys2Proof.Machine.execTxClose s
  | .txAbort => Sys2Proof.Machine.execTxAbort s
  | .reset => Sys2Proof.Machine.execReset s
  | .modmul a k m => Sys2Proof.Machine.execModmul a k m s
  | .csum p n => Sys2Proof.Machine.execCsum p n s
  | .pack18 b j v => Sys2Proof.Machine.execPack18 b j v s
  | .unpack18 b j => Sys2Proof.Machine.execUnpack18 b j s
  | .blkEnc bank p usedLen => Sys2Proof.Machine.execBlkEnc bank p usedLen s
  | .blkDec bank c lenient => Sys2Proof.Machine.execBlkDec bank c lenient s

end Sys2Proof.Machine
end

