-- ==== Sys2Proof/Machine/Fetch.lean ====
section
/-!
DEFINITION. Where the next step comes from: the offers of the outside parties (log entries 1, 2, 6).
-/

namespace Sys2Proof.Machine

/-- The state after the next offer has been taken off the list. -/
def State.takeOffer (s : State) (rest : List Offer) : State :=
  { s with sched := rest }

/-- An offer the decoder rejects. Bytes on RXB that are no whole frame are what they are on the hardware: bytes, accepted
one after another (R121); so an unrecognized type byte in header position raises InvalidPacketHeader (R112, R182) and a
part of a frame is a partial arrival (R193). -/
def runUndecoded (o : Offer) (e : DecodeError) (s : State) : Result :=
  match o with
  | .wire bytes => .next (rxFeed bytes s)
  | .hostWrite _ _ => .fault (.undecodable e)
  | .event _ => .fault (.undecodable e)

/-- The step that happens when no outside party offers anything: the only step that needs none, RX.PROCESS (R21,
R381). -/
def internalStep : Instr :=
  .rxProcess

/-- The state with an offer placed where `step` takes its next one. -/
def State.placeOffer (s : State) : Option Offer → State
  | some o => { s with sched := o :: s.sched }
  | none => s

end Sys2Proof.Machine
end

