-- ==== Sys2Proof/Machine/Step.lean ====
section
/-!
DEFINITION. One step: the next offer is taken, decoded and run; with no offer, the internal step.
-/

namespace Sys2Proof.Machine

/-- One step of the machine (00_scope.md R13; log entries 1, 2). -/
def step (s : State) : Host.Outcome State Fault Refusal :=
  match s.sched with
  | [] => exec internalStep s
  | o :: rest =>
    match decode o with
    | .ok i => exec i (s.takeOffer rest)
    | .error e => runUndecoded o e (s.takeOffer rest)

/-- The state in which the next step runs the instruction of a row of opcode_table.json (log entry 1). -/
def State.withFetchWord (s : State) (nbits w : Nat) : State :=
  s.placeOffer (tableOffer nbits w)

end Sys2Proof.Machine
end

