-- ==== Sys2Proof/Safety.lean ====
section
/-!
DEFINITION. What a good state is (the invariant every step keeps), what a faulting step leaves, sequences of
instructions, and the conditions on keys and frames that the statements use.
-/

namespace Sys2Proof.Machine

/-! ### Frames and buffers -/

/-- A whole frame: recognized type byte, complete header, and the declared length is the length (30_encoding.md R95). -/
def wholeFrame (f : List Byte) : Bool :=
  !f.isEmpty && isRecognized (f.getD 0 0) && decide (hdrLen (f.getD 0 0) ≤ f.length) && decide (totalLen f = f.length)

/-- What RXBUF may hold (10_state.md R23, R24, 42_framer.md R183): nothing; or a recognized type byte first and, once
the header is complete, a declared length that is at least the header's and not exceeded. -/
def assembling (buf : List Byte) : Bool :=
  buf.isEmpty ||
    (isRecognized (buf.getD 0 0) &&
      (decide (buf.length < hdrLen (buf.getD 0 0)) ||
        (decide (hdrLen (buf.getD 0 0) ≤ totalLen buf) && decide (buf.length ≤ totalLen buf))))

/-- The length TX.FRAME's output has for a cipher-qualifying frame with `len` content bytes (43_stream_encryptor.md
R219). -/
def encipheredLen (v : Variant) (len : Nat) : Nat :=
  3 + ceilDiv (len + if v.usesCounter then 1 else 0) v.blockCap * v.encBlockSize

/-- A frame TX.FRAME can send (R211, R213). -/
def sendable (v : Variant) (f : List Byte) : Bool :=
  wholeFrame f && (!isCipher (f.getD 0 0) || decide (encipheredLen v (f.length - 3) ≤ 65535))

/-! ### Keys -/

/-- `keysUsable(bank, N)` (41_block_codec.md R152). -/
abbrev KeysUsable (v : Variant) (b : KeyBank) : Prop :=
  ∀ i : Fin 16, i.val < v.slotCount → b.mod[i] ≠ 0

/-- Slot `i` is the lowest slot below N with a zero modulus (R152, R327). -/
abbrev LowestZeroSlot (v : Variant) (b : KeyBank) (i : Fin 16) : Prop :=
  i.val < v.slotCount ∧ b.mod[i] = 0 ∧ ∀ j : Fin 16, j < i → b.mod[j] ≠ 0

/-- A matching pair of banks for a variant (46_keymaterial_host.md R300, 41_block_codec.md R155). -/
abbrev MatchingPair (v : Variant) (e d : KeyBank) : Prop :=
  ∀ i : Fin 16, i.val < v.slotCount →
    e.mod[i] = d.mod[i] ∧ e.xork[i] = d.xork[i] ∧
    (e.enc[i].toNat * d.dec[i].toNat) % e.mod[i].toNat = 1 ∧
    0xFFFF < e.mod[i].toNat ∧ e.mod[i].toNat ≤ 0x40000 ∧ e.xork[i].toNat ≤ 0xFFFF

/-! ### The state a fault leaves -/

/-- The state after fault entry, written out (60_exceptions.md R330): `code` and `dir` in ERR_CODE, the two info values,
the position, the three buffers emptied, nothing else changed but the answer. -/
def State.haltedWith (s : State) (code dir info0 info1 : Word) (pos : Dword) : State :=
  { s with
    fault := true
    errCode := code ||| (dir <<< 8)
    errInfo0 := info0
    errInfo1 := info1
    errPos := pos
    rxbuf := []
    outf := none
    txout := []
    resp := .faulted }

/-! ### The invariant -/

/-- RXBUF never holds a byte beyond the frame being assembled (R183), OUTF only whole frames (R25), TXOUT at most one
frame's bytes (R28). -/
abbrev BuffersOk (s : State) : Prop :=
  assembling s.rxbuf = true ∧ s.outf.all wholeFrame = true ∧ s.txout.length ≤ 65535

/-- A halted core holds no data (R330), carries a cause 1..6 and a clean ERR_CODE (R321, R33), and has an enable bit set
(45_system_ops.md R262); a running one has no fault information. -/
abbrev FaultOk (s : State) : Prop :=
  (s.fault = true → s.rxbuf = [] ∧ s.outf = none ∧ s.txout = [] ∧ s.errCode.extractLsb' 9 23 = 0 ∧
    1 ≤ (s.errCode.extractLsb' 0 8).toNat ∧ (s.errCode.extractLsb' 0 8).toNat ≤ 6 ∧
    (s.rxEn = true ∨ s.txEn = true)) ∧
  (s.fault = false → s.errCode = 0 ∧ s.errInfo0 = 0 ∧ s.errInfo1 = 0 ∧ s.errPos = 0)

/-- An idle path holds no data (20_memory.md R61), is open and stands at position 0. -/
abbrev IdleOk (s : State) : Prop :=
  (s.rxEn = false → s.rxbuf = [] ∧ s.outf = none ∧ s.rxClosed = false ∧ s.rxPos = 0 ∧ s.warnCnt = 0) ∧
  (s.txEn = false → s.txout = [] ∧ s.txClosed = false ∧ s.txPos = 0)

/-- After a close RXBUF holds no partial frame (R191); warnings are counted in lenient mode only (R237); the reserved
bits of BLK_STATUS are 0 (R38). -/
abbrev RestOk (s : State) : Prop :=
  (s.rxClosed = true → s.rxbuf = [] ∨ s.rxState = .emit) ∧
  (s.warnCnt ≠ 0 → s.lenient = true) ∧
  s.blkStatus.extractLsb' 9 7 = 0

/-- The invariant of SMFC. -/
abbrev Inv (s : State) : Prop :=
  BuffersOk s ∧ FaultOk s ∧ IdleOk s ∧ RestOk s

/-! ### Sequences of instructions -/

/-- Instructions run one after another (the programs of 30_encoding.md R120). -/
def runAll : List Instr → State → Result
  | [], s => .next s
  | i :: is, s =>
    match exec i s with
    | .next t => runAll is t
    | .fault r => .fault r
    | .refused r => .refused r

/-- Instructions run one after another, with the answers collected. -/
def runAnswers : List Instr → State → Option (List Response × State)
  | [], s => some ([], s)
  | i :: is, s =>
    match exec i s with
    | .next t =>
      match runAnswers is t with
      | some (rs, u) => some (t.resp :: rs, u)
      | none => none
    | _ => none

/-- `rx.byte` for each byte (R121). -/
def rxBytes (bs : List Byte) : List Instr :=
  bs.map Instr.rxByte

/-- One frame from the producer of `a` to the consumer of `b` (44_stream_decryptor.md R241): submitted to `a`, its bytes
taken from TXB and put on `b`'s RXB one by one, processed, delivered. Gives what the consumer got. -/
def carryFrame (f : List Byte) (a b : State) : Option (Response × State × State) :=
  match exec (.txFrame f) a with
  | .next a1 =>
    match runAll (List.replicate a1.txout.length .txByte) a1 with
    | .next a2 =>
      match runAll (rxBytes a1.txout ++ [.rxProcess, .rxDeliver]) b with
      | .next b2 => some (b2.resp, a2, b2)
      | _ => none
    | _ => none
  | _ => none

/-- Frames carried one after another. -/
def carryFrames : List (List Byte) → State → State → Option (List Response × State × State)
  | [], a, b => some ([], a, b)
  | f :: fs, a, b =>
    match carryFrame f a b with
    | none => none
    | some (r, a2, b2) =>
      match carryFrames fs a2 b2 with
      | none => none
      | some (rs, a3, b3) => some (r :: rs, a3, b3)

/-- The instructions that leave the halted state and clear the enable bits: RESET, CMD.CONN_RESET, and the register
write that is that command (R265, R361). -/
def isResetInstr : Instr → Bool
  | .reset => true
  | .cmdConnReset => true
  | .csrWr n v => n == cmdNumber && v.setWidth 8 == 0x01#8
  | _ => false

/-- The steps of agent RX (10_state.md R21), and the wire frames that are sequences of them (30_encoding.md R121). -/
def isRxInstr : Instr → Bool
  | .frameC1 _ _ | .frameC2 _ _ | .frameC3 _ _ | .frameC4 _ _ => true
  | .rxByte _ | .rxProcess | .rxDeliver | .rxClose | .rxAbort => true
  | _ => false

/-- The steps of agent TX (10_state.md R21). -/
def isTxInstr : Instr → Bool
  | .txFrame _ | .txByte | .txClose | .txAbort => true
  | _ => false

/-! ### Words the statements use -/

/-- The RX path is enabled, open and running and holds no byte: the next byte on RXB is a type byte. -/
abbrev RxWaiting (s : State) : Prop :=
  s.rxEn = true ∧ s.fault = false ∧ s.rxClosed = false ∧ s.rxbuf = []

/-- RX.PROCESS is enabled on the frame `f` (44_stream_decryptor.md R231), given that `f` is complete. -/
abbrev RxHolds (s : State) (f : List Byte) : Prop :=
  s.rxEn = true ∧ s.fault = false ∧ s.outf = none ∧ s.rxbuf = f

/-- TX.FRAME is enabled (43_stream_encryptor.md R212). -/
abbrev TxWaiting (s : State) : Prop :=
  s.txEn = true ∧ s.fault = false ∧ s.txClosed = false ∧ s.txout = []

/-- The long-header frame of type `t` with a content, its length field filled in (30_encoding.md R94, R95). -/
def longOf (t : Byte) (content : List Byte) : List Byte :=
  longFrame t (BitVec.ofNat 16 (3 + content.length)) content

/-- The short-header frame with a content, its length field filled in. -/
def shortOf (content : List Byte) : List Byte :=
  shortFrame 0xC1 (BitVec.ofNat 8 (2 + content.length)) content

/-- The two cipher-qualifying classes with their instructions (30_encoding.md R92). -/
abbrev CipherClass (t : Byte) (mk : Half → List Byte → Instr) : Prop :=
  (t = 0xC3 ∧ mk = Instr.frameC3) ∨ (t = 0xC4 ∧ mk = Instr.frameC4)

/-- An enciphered content `e` of type `t` ends in the state `u`, whether it lies assembled in RXBUF and RX.PROCESS runs,
or comes as the wire frame `mk` on a waiting path whose OUTF is empty. -/
def EndsIn (s : State) (t : Byte) (mk : Half → List Byte → Instr) (e : List Byte) (u : State) : Prop :=
  (RxHolds s (longOf t e) → exec .rxProcess s = .next u) ∧
  (RxWaiting s → s.outf = none → exec (mk (BitVec.ofNat 16 (3 + e.length)) e) s = .next u)

/-- The state after RX.PROCESS without a fault (R231): frame `g` in OUTF, `len` bytes gone from RXBUF, the counter, the
warnings. -/
def State.delivered (s : State) (g : List Byte) (ctr : Byte) (len warns : Nat) : State :=
  { s with
    rxbuf := []
    outf := some g
    rxCtr := ctr
    rxPos := s.rxPos + BitVec.ofNat 64 len
    warnCnt := BitVec.ofNat 32 (min (s.warnCnt.toNat + warns) 0xFFFFFFFF)
    resp := .processed warns }

/-- RX_CTR after a cipher-qualifying frame (10_state.md R34). -/
def State.nextRxCtr (s : State) : Byte :=
  match s.variant with
  | .new => s.rxCtr + 1
  | .old => s.rxCtr

/-- TX_CTR after a cipher-qualifying frame (10_state.md R34). -/
def State.nextTxCtr (s : State) : Byte :=
  match s.variant with
  | .new => s.txCtr + 1
  | .old => s.txCtr

/-- The bytes TX.FRAME cuts into blocks (30_encoding.md R102). -/
def State.txStream (s : State) (content : List Byte) : List Byte :=
  match s.variant with
  | .new => s.txCtr :: content
  | .old => content

/-- Ciphertext blocks that the RX path decodes without a fault, the counter check of the first included. -/
abbrev BlocksOk (s : State) (blocks : List (List Byte)) (ds : List Decoded) : Prop :=
  List.Forall₂ (fun c d => c.length = s.variant.encBlockSize ∧ blkDec s.variant s.rxk c s.lenient = .ok d) blocks ds ∧
  (s.variant = .new → ∀ d ∈ ds.head?, d.usedLen ≠ 0 ∧ d.plain.getD 0 0 = s.rxCtr)

/-- The `usedLen` a block's trailer gives (30_encoding.md R100). -/
def trailerUsed (v : Variant) (c : List Byte) : Byte :=
  c.getD (v.encBlockSize - 2) 0 ^^^ c.getD (v.encBlockSize - 1) 0 ^^^ 0x3D

/-- Which bit of the value stands at stream position `k` of its 18-bit field: the table of 30_encoding.md R98, "v[7]",
..., "v[0]", "v[15]", ..., "v[8]", "v[17]", "v[16]". -/
def valueBit (k : Nat) : Nat :=
  if k < 8 then 7 - k else if k < 16 then 23 - k else 33 - k

/-- CSR.RD of `n` answers `v` and changes nothing. -/
abbrev CsrReads (s : State) (n : BitVec 12) (v : Word) : Prop :=
  exec (.csrRd n) s = .next { s with resp := .word v }

/-- CSR.WR of `v` to `n` ends in `t`, which has the answer "done". -/
abbrev CsrWrites (s : State) (n : BitVec 12) (v : Word) (t : State) : Prop :=
  exec (.csrWr n v) s = .next { t with resp := .done }

/-- The numbers that name no register (10_state.md R30). -/
abbrev Unmapped (n : BitVec 12) : Prop :=
  (0x014 ≤ n.toNat ∧ n.toNat < 0x020) ∨ (0x028 ≤ n.toNat ∧ n.toNat < 0x030) ∨ (0x03A ≤ n.toNat ∧ n.toNat < 0x100) ∨
  (0x140 ≤ n.toNat ∧ n.toNat < 0x200) ∨ 0x240 ≤ n.toNat

/-- The same state but for the model's own answer. -/
abbrev SameButAnswer (s t : State) : Prop :=
  s.respond .done = t.respond .done

/-- What the TX path reads is equal in two states: not TXK.DEC, nothing of the RX path (10_state.md R21, R40). -/
abbrev TxAgree (s t : State) : Prop :=
  s.variant = t.variant ∧ s.txEn = t.txEn ∧ s.fault = t.fault ∧ s.txClosed = t.txClosed ∧ s.txout = t.txout ∧
  s.txCtr = t.txCtr ∧ s.txPos = t.txPos ∧ s.txk.mod = t.txk.mod ∧ s.txk.enc = t.txk.enc ∧ s.txk.xork = t.txk.xork

/-- What the RX path reads is equal in two states: not RXK.ENC, nothing of the TX path. -/
abbrev RxAgree (s t : State) : Prop :=
  s.variant = t.variant ∧ s.lenient = t.lenient ∧ s.rxEn = t.rxEn ∧ s.fault = t.fault ∧ s.rxClosed = t.rxClosed ∧
  s.rxbuf = t.rxbuf ∧ s.outf = t.outf ∧ s.rxCtr = t.rxCtr ∧ s.rxPos = t.rxPos ∧ s.warnCnt = t.warnCnt ∧
  s.rxk.mod = t.rxk.mod ∧ s.rxk.dec = t.rxk.dec ∧ s.rxk.xork = t.rxk.xork

/-- The fault information is equal in two states. -/
abbrev SameFaultInfo (s t : State) : Prop :=
  s.errCode = t.errCode ∧ s.errInfo0 = t.errInfo0 ∧ s.errInfo1 = t.errInfo1 ∧ s.errPos = t.errPos

end Sys2Proof.Machine
end

