-- ==== Sys2Proof/Certificates/Slice0/Obligations.lean ====
section
/-!
DEFINITION. The statements for the provers. Each docstring names the rule of spec/ it formalises, or says that it is the
model's own choice and names the log entry. `resp` in a next state is the model's own record of what the step answered
(log entry 4); the frame of an instruction is the record update: every field it does not name is unchanged.
-/

open Sys2Proof Sys2Proof.Machine

/-! ### Encoding -/

/-- Decoding the encoding of a well-formed instruction gives it back, for all 30 instructions and every operand (R90 to
R95, R110, R122). -/
def Obligations.DecodeOfEncode : Prop :=
  ∀ i : Instr, WellFormed i = true → decode (encode i) = .ok i

/-- What decodes is what the encoder writes: the same bytes on RXB, the same event, the same write on the register port;
for a command the bits 31:8 of the word are the only ones that are not kept (R37). -/
def Obligations.EncodeOfDecoded : Prop :=
  ∀ (o : Offer) (i : Instr), decode o = .ok i →
    match o with
    | .wire bytes => encode i = .wire bytes
    | .event j => encode i = .event j
    | .hostWrite n v => ∃ v', encode i = .hostWrite n v' ∧ (v' = v ∨ (n = 0x00F ∧ v'.setWidth 8 = v.setWidth 8))

/-- Words written out from the spec's encodings decode to the instruction they stand for: whole frames of the classes
C1, C2 and C4 as in the examples of R187, R188 and R190, codes of R110, and an illegal type byte (R112). MODEL'S CHOICE
(log entries 6 and 14): the bytes C3 01 02, a partial arrival that R193 allows, are no whole frame and decode to
`lengthMismatch`, after which the step runs them byte by byte. MODEL'S CHOICE (log entry 14, DESIGN CHOICE): a write of
the reserved code 0x04 to CMD is CSR.WR, and an opcode-table number whose declared length is beyond its bits is completed
with bytes 0. -/
def Obligations.SpecWordsDecode : Prop :=
  decode (.wire [0xC1, 0x04, 0xAA, 0xBB]) = .ok (.frameC1 4 [0xAA, 0xBB]) ∧
  decode (.wire [0xC2, 0x00, 0x05, 0xAA, 0xBB]) = .ok (.frameC2 5 [0xAA, 0xBB]) ∧
  decode (.wire [0xC3, 0x01, 0x02]) = .error .lengthMismatch ∧
  decode (.wire [0xC4, 0x00, 0x03]) = .ok (.frameC4 3 []) ∧
  decode (.wire [0xC5, 0x02]) = .error (.illegalType 0xC5) ∧
  decode (.hostWrite 0x00F 0xABCDEF12) = .ok .cmdPack18 ∧
  decode (.hostWrite 0x00F 0x04) = .ok (.csrWr 0x00F 0x04) ∧
  decode (.hostWrite 0x000 0x01) = .ok (.csrWr 0x000 0x01) ∧
  decodeTableWord 24 0x0500C2 = some (.frameC2 5 [0, 0])

/-! ### The step -/

/-- A step takes the next offer, decodes it and runs exactly the decoded instruction; nothing else changes but the list
of offers (R13; log entry 1). -/
def Obligations.StepRunsDecoded : Prop :=
  ∀ (s : State) (o : Offer) (rest : List Offer) (i : Instr),
    s.sched = o :: rest → decode o = .ok i → step s = exec i { s with sched := rest }

/-- The instruction of an opcode-table word, placed where the step takes its next one, is what the step runs, on the
state it was placed in (log entry 1; how a number of the opcode table is laid out as an offer: log entry 14). -/
def Obligations.StepRunsTableWord : Prop :=
  ∀ (s : State) (nbits w : Nat) (i : Instr),
    decodeTableWord nbits w = some i → step (s.withFetchWord nbits w) = exec i s

/-- MODEL'S CHOICE (log entry 2, DEDUCED from R21 and R381): with no offer left, the step is RX.PROCESS, the only one
that needs no outside party. -/
def Obligations.IdleStepProcesses : Prop :=
  ∀ s : State, s.sched = [] → step s = exec .rxProcess s

/-- MODEL'S CHOICE (log entry 6, DEDUCED from R121 and R193): bytes on RXB that are no whole frame do what the same bytes
do one by one with RX.BYTE, but for the model's own answer. MODEL'S CHOICE (log entry 14): an instruction that has an
encoding is no event, and offering it as one is the only stop of the model. -/
def Obligations.StepOnRejectedOffer : Prop :=
  (∀ (s : State) (bytes : List Byte) (rest : List Offer) (e : DecodeError),
    s.sched = .wire bytes :: rest → decode (.wire bytes) = .error e →
    ∃ t u, step s = .next t ∧ runAll (rxBytes bytes) { s with sched := rest } = .next u ∧ SameButAnswer t u) ∧
  (∀ (s : State) (i : Instr) (rest : List Offer),
    s.sched = .event i :: rest → i.isEvent = false → step s = .fault (.undecodable .encodedRow)) ∧
  (∀ (s : State) (f : Fault), step s = .fault f → ∃ i rest, s.sched = .event i :: rest ∧ i.isEvent = false)

/-- A wire frame on a waiting path is its bytes, one RX.BYTE each, and then RX.PROCESS: the grouping of bytes makes no
difference (R193, `rx.frame` of R121; log entry 5). For all four classes, every content that fits the length field. -/
def Obligations.FrameIsItsBytes : Prop :=
  ∀ (s : State) (content : List Byte), RxWaiting s →
    (content.length ≤ 253 →
      exec (.frameC1 (BitVec.ofNat 8 (2 + content.length)) content) s
        = runAll (rxBytes (shortOf content) ++ [.rxProcess]) s) ∧
    (content.length ≤ 65532 →
      exec (.frameC2 (BitVec.ofNat 16 (3 + content.length)) content) s
        = runAll (rxBytes (longOf 0xC2 content) ++ [.rxProcess]) s ∧
      exec (.frameC3 (BitVec.ofNat 16 (3 + content.length)) content) s
        = runAll (rxBytes (longOf 0xC3 content) ++ [.rxProcess]) s ∧
      exec (.frameC4 (BitVec.ofNat 16 (3 + content.length)) content) s
        = runAll (rxBytes (longOf 0xC4 content) ++ [.rxProcess]) s)

/-! ### Frames through the two paths -/

/-- R221: frames of the types 0xC1 and 0xC2 pass byte-identical through both paths, with keys and counters untouched;
every other type byte below 0xC3 faults in both. -/
def Obligations.PassThroughBothWays : Prop :=
  (∀ (s : State) (content : List Byte), content.length ≤ 253 →
    (RxWaiting s → s.outf = none →
      exec (.frameC1 (BitVec.ofNat 8 (2 + content.length)) content) s
        = .next (s.delivered (shortOf content) s.rxCtr (2 + content.length) 0)) ∧
    (RxHolds s (shortOf content) →
      exec .rxProcess s = .next (s.delivered (shortOf content) s.rxCtr (2 + content.length) 0)) ∧
    (TxWaiting s →
      exec (.txFrame (shortOf content)) s = .next { s with txout := shortOf content, resp := .done })) ∧
  (∀ (s : State) (content : List Byte), content.length ≤ 65532 →
    (RxWaiting s → s.outf = none →
      exec (.frameC2 (BitVec.ofNat 16 (3 + content.length)) content) s
        = .next (s.delivered (longOf 0xC2 content) s.rxCtr (3 + content.length) 0)) ∧
    (RxHolds s (longOf 0xC2 content) →
      exec .rxProcess s = .next (s.delivered (longOf 0xC2 content) s.rxCtr (3 + content.length) 0)) ∧
    (TxWaiting s →
      exec (.txFrame (longOf 0xC2 content)) s = .next { s with txout := longOf 0xC2 content, resp := .done })) ∧
  (∀ (s : State) (t : Byte) (rest : List Byte), t.toNat < 0xC3 → t ≠ 0xC1 → t ≠ 0xC2 →
    (RxWaiting s → exec (.rxByte t) s = .next (s.haltedWith 1 0 (t.setWidth 32) 0 s.rxPos)) ∧
    (TxWaiting s → exec (.txFrame (t :: rest)) s = .next (s.haltedWith 1 1 (t.setWidth 32) 0 s.txPos)))

/-- R231, the run without a fault: each block's recovered bytes, as many as its `usedLen` says, joined; in variant `new`
the counter byte taken off; the header rewritten with the plain length; the counter advanced in variant `new`; RX_POS
advanced by the length on the wire; one warning counted for each tolerated mismatch. -/
def Obligations.CipherFrameIsDeciphered : Prop :=
  ∀ (s : State) (t : Byte) (mk : Half → List Byte → Instr) (blocks : List (List Byte)) (ds : List Decoded)
    (plain : List Byte),
    CipherClass t mk → blocks.flatten.length ≤ 65532 → KeysUsable s.variant s.rxk → BlocksOk s blocks ds →
    (s.variant = .new → ds ≠ []) →
    plain = (ds.flatMap fun d => d.plain.take d.usedLen.toNat).drop (if s.variant = .new then 1 else 0) →
    EndsIn s t mk blocks.flatten
      (s.delivered (longOf t plain) s.nextRxCtr (3 + blocks.flatten.length) (ds.countP (·.warned)))

/-- R232: an enciphered content that is no whole number of blocks. -/
def Obligations.ContentNotMultiple : Prop :=
  ∀ (s : State) (t : Byte) (mk : Half → List Byte → Instr) (e : List Byte),
    CipherClass t mk → e.length ≤ 65532 → e.length % s.variant.encBlockSize ≠ 0 →
    EndsIn s t mk e (s.haltedWith 5 0 (BitVec.ofNat 32 e.length) 1 s.rxPos)

/-- R233: a frame without a counter byte in variant `new`: no block at all (whatever the keys are), or a first block that
passes its own checks and declares `usedLen = 0`; in variant `old` the frame without a block is delivered unchanged. -/
def Obligations.MissingCounter : Prop :=
  ∀ (s : State) (t : Byte) (mk : Half → List Byte → Instr), CipherClass t mk →
    (s.variant = .new → EndsIn s t mk [] (s.haltedWith 5 0 0 4 s.rxPos)) ∧
    (∀ (c rest : List Byte) (d : Decoded), s.variant = .new → c.length = 11 → rest.length % 11 = 0 →
      (c ++ rest).length ≤ 65532 → blkDec .new s.rxk c s.lenient = .ok d → d.usedLen = 0 →
      EndsIn s t mk (c ++ rest) (s.haltedWith 5 0 0 4 s.rxPos)) ∧
    (s.variant = .old → KeysUsable .old s.rxk →
      EndsIn s t mk [] (s.delivered [t, 0x00, 0x03] s.rxCtr 3 0))

/-- R236, R325: in variant `new` the first byte of the first decoded block differs from RX_CTR: strict or lenient, the
core halts with expected and actual, and RX_CTR keeps the expected value. -/
def Obligations.CounterMismatch : Prop :=
  ∀ (s : State) (t : Byte) (mk : Half → List Byte → Instr) (c rest : List Byte) (d : Decoded),
    CipherClass t mk → s.variant = .new → c.length = 11 → rest.length % 11 = 0 → (c ++ rest).length ≤ 65532 →
    blkDec .new s.rxk c s.lenient = .ok d → d.usedLen ≠ 0 → d.plain.getD 0 0 ≠ s.rxCtr →
    EndsIn s t mk (c ++ rest)
      (s.haltedWith 4 0 ((s.rxCtr.setWidth 32 <<< 8) ||| (d.plain.getD 0 0).setWidth 32) 0 s.rxPos)

/-- R234, R323: block `k` of a frame declares more bytes than a block holds: strict or lenient, the core halts with the
declared length and `k`. -/
def Obligations.BlockSizeFault : Prop :=
  ∀ (s : State) (t : Byte) (mk : Half → List Byte → Instr) (pre : List (List Byte)) (ds : List Decoded)
    (c post : List Byte),
    CipherClass t mk → KeysUsable s.variant s.rxk → BlocksOk s pre ds →
    c.length = s.variant.encBlockSize → post.length % s.variant.encBlockSize = 0 →
    (pre.flatten ++ c ++ post).length ≤ 65532 →
    s.variant.blockCap < (trailerUsed s.variant c).toNat →
    EndsIn s t mk (pre.flatten ++ c ++ post)
      (s.haltedWith 2 0 ((trailerUsed s.variant c).setWidth 32) (BitVec.ofNat 32 pre.length) s.rxPos)

/-- R324: the checksum of block `k` differs from the one recomputed over the first `usedLen` decoded bytes, after the
size check passed: strict, the core halts with computed, received and `k`; lenient, RX.PROCESS never halts with this
cause. -/
def Obligations.BlockChecksumFault : Prop :=
  (∀ (s : State) (t : Byte) (mk : Half → List Byte → Instr) (pre : List (List Byte)) (ds : List Decoded)
    (c post : List Byte) (computed received : Byte),
    CipherClass t mk → s.lenient = false → KeysUsable s.variant s.rxk → BlocksOk s pre ds →
    c.length = s.variant.encBlockSize → post.length % s.variant.encBlockSize = 0 →
    (pre.flatten ++ c ++ post).length ≤ 65532 →
    (trailerUsed s.variant c).toNat ≤ s.variant.blockCap →
    computed = csum (decPlain s.variant s.rxk c) (trailerUsed s.variant c).toNat →
    received = c.getD (s.variant.encBlockSize - 1) 0 → computed ≠ received →
    EndsIn s t mk (pre.flatten ++ c ++ post)
      (s.haltedWith 3 0 ((computed.setWidth 32 <<< 8) ||| received.setWidth 32) (BitVec.ofNat 32 pre.length) s.rxPos)) ∧
  (∀ s t : State, s.lenient = true → s.errCode = 0 → exec .rxProcess s = .next t → t.errCode.extractLsb' 0 8 ≠ 3#8)

/-- R237: a frame that completes adds its warnings to WARN_CNT, saturating, and pulses once for each; none in strict
mode; a frame that faults adds none. -/
def Obligations.Warnings : Prop :=
  ∀ s t : State, s.rxEn = true → s.fault = false → s.rxState = .emit → s.outf = none → exec .rxProcess s = .next t →
    (t.fault = false → ∃ n, t.resp = .processed n ∧ t.warnCnt.toNat = min (s.warnCnt.toNat + n) 0xFFFFFFFF ∧
      (s.lenient = false → n = 0)) ∧
    (t.fault = true → t.warnCnt = s.warnCnt)

/-! ### The framer -/

/-- R112, R322: a byte that is none of the four type bytes, in header position, on RXB and on TXF. -/
def Obligations.IllegalTypeByte : Prop :=
  ∀ (s : State) (t : Byte) (rest : List Byte), t ≠ 0xC1 → t ≠ 0xC2 → t ≠ 0xC3 → t ≠ 0xC4 →
    (RxWaiting s → exec (.rxByte t) s = .next (s.haltedWith 1 0 (t.setWidth 32) 0 s.rxPos)) ∧
    (TxWaiting s → exec (.txFrame (t :: rest)) s = .next (s.haltedWith 1 1 (t.setWidth 32) 0 s.txPos))

/-- R185: a completed header that declares less than its own length, as bytes and as wire frames. -/
def Obligations.ShortDeclaredLength : Prop :=
  (∀ (s : State) (len : Byte), s.rxEn = true → s.fault = false → s.rxClosed = false → len.toNat < 2 →
    (s.rxbuf = [0xC1] → exec (.rxByte len) s = .next (s.haltedWith 5 0 (len.setWidth 32) 3 s.rxPos)) ∧
    (s.rxbuf = [] → exec (.frameC1 len []) s = .next (s.haltedWith 5 0 (len.setWidth 32) 3 s.rxPos))) ∧
  (∀ (s : State) (lo : Byte), s.rxEn = true → s.fault = false → s.rxClosed = false → lo.toNat < 3 →
    (∀ t : Byte, t = 0xC2 ∨ t = 0xC3 ∨ t = 0xC4 → s.rxbuf = [t, 0] →
      exec (.rxByte lo) s = .next (s.haltedWith 5 0 (lo.setWidth 32) 3 s.rxPos)) ∧
    (s.rxbuf = [] →
      exec (.frameC2 (lo.setWidth 16) []) s = .next (s.haltedWith 5 0 (lo.setWidth 32) 3 s.rxPos) ∧
      exec (.frameC3 (lo.setWidth 16) []) s = .next (s.haltedWith 5 0 (lo.setWidth 32) 3 s.rxPos) ∧
      exec (.frameC4 (lo.setWidth 16) []) s = .next (s.haltedWith 5 0 (lo.setWidth 32) 3 s.rxPos)))

/-- R180, the ten rows of the framer's table: from each state of the framer, what the byte (or RX.PROCESS) leads to. The
row for a total above RXBUF_CAP is stated of the check itself, for every capacity; at this build's 65535 it never
applies. -/
def Obligations.FramerTransitions : Prop :=
  (∀ (s : State) (b : Byte), s.rxEn = true → s.fault = false → s.rxClosed = false → assembling s.rxbuf = true →
    (s.rxbuf = [] → isRecognized b = true →
      exec (.rxByte b) s = .next { s with rxbuf := [b], resp := .done } ∧ rxStateOf [b] = .awaitingHeader) ∧
    (s.rxbuf = [] → isRecognized b = false →
      exec (.rxByte b) s = .next (s.haltedWith 1 0 (b.setWidth 32) 0 s.rxPos)) ∧
    (∀ t : Byte, s.rxbuf = [t] → hdrLen t = 3 →
      exec (.rxByte b) s = .next { s with rxbuf := [t, b], resp := .done } ∧ rxStateOf [t, b] = .awaitingHeader) ∧
    (∀ t : Byte, s.rxbuf.head? = some t → s.rxbuf.length + 1 = hdrLen t →
      (totalLen (s.rxbuf ++ [b]) < hdrLen t →
        exec (.rxByte b) s
          = .next (s.haltedWith 5 0 (BitVec.ofNat 32 (totalLen (s.rxbuf ++ [b]))) 3 s.rxPos)) ∧
      (hdrLen t ≤ totalLen (s.rxbuf ++ [b]) →
        exec (.rxByte b) s = .next { s with rxbuf := s.rxbuf ++ [b], resp := .done }) ∧
      (totalLen (s.rxbuf ++ [b]) = hdrLen t → rxStateOf (s.rxbuf ++ [b]) = .emit) ∧
      (hdrLen t < totalLen (s.rxbuf ++ [b]) →
        rxStateOf (s.rxbuf ++ [b]) = .awaitingContent ∧
        rxRemainOf (s.rxbuf ++ [b]) = totalLen (s.rxbuf ++ [b]) - hdrLen t)) ∧
    (s.rxState = .awaitingContent →
      exec (.rxByte b) s = .next { s with rxbuf := s.rxbuf ++ [b], resp := .done } ∧
      (1 < rxRemainOf s.rxbuf →
        rxStateOf (s.rxbuf ++ [b]) = .awaitingContent ∧ rxRemainOf (s.rxbuf ++ [b]) = rxRemainOf s.rxbuf - 1) ∧
      (rxRemainOf s.rxbuf = 1 → rxStateOf (s.rxbuf ++ [b]) = .emit))) ∧
  (∀ (cap : Nat) (buf : List Byte) (t b : Byte), buf.head? = some t → buf.length + 1 = hdrLen t →
    hdrLen t ≤ totalLen (buf ++ [b]) → cap < totalLen (buf ++ [b]) →
    acceptByte cap buf b = .error ⟨.contentLength, BitVec.ofNat 32 (totalLen (buf ++ [b])), 2⟩) ∧
  (∀ buf : List Byte, totalLen buf ≤ Config.rxbufCap) ∧
  (∀ s t : State, s.rxEn = true → s.fault = false → s.rxState = .emit → s.outf = none →
    exec .rxProcess s = .next t → t.rxbuf = [] ∧ t.rxState = .awaitingHeader)

/-- R191, R192, R238: closing discards a partial frame and keeps a complete one, aborting drops everything, delivering
hands the frame over once. RX_DONE follows. -/
def Obligations.RxCloseAbortDeliver : Prop :=
  (∀ s : State, s.rxEn = true → s.fault = false → s.rxClosed = false →
    exec .rxClose s = .next { s with
      rxClosed := true, rxbuf := if s.rxState = .emit then s.rxbuf else [], resp := .done } ∧
    exec .rxAbort s = .next { s with rxClosed := true, rxbuf := [], outf := none, resp := .done } ∧
    (∀ t, exec .rxClose s = .next t → (t.rxDone = true ↔ s.outf = none ∧ s.rxState ≠ .emit)) ∧
    (∀ t, exec .rxAbort s = .next t → t.rxDone = true ∧ t.statusWord.getLsbD 8 = true)) ∧
  (∀ (s : State) (g : List Byte), s.fault = false → s.outf = some g →
    exec .rxDeliver s = .next { s with outf := none, resp := .bytes g })

/-! ### The encryptor -/

/-- R212: a cipher-qualifying frame that fits, with usable keys: the content (in variant `new` behind TX_CTR) cut into
chunks of `blockCap` bytes, each padded with zero bytes and enciphered with its own length, behind a header with the new
total; TX_CTR advanced in variant `new`. -/
def Obligations.TxFrameEnciphers : Prop :=
  ∀ (s : State) (t : Byte) (content stream : List Byte), t = 0xC3 ∨ t = 0xC4 → TxWaiting s → content.length ≤ 65532 →
    encipheredLen s.variant content.length ≤ 65535 → KeysUsable s.variant s.txk → stream = s.txStream content →
    ∃ blocks : List (List Byte),
      blocks.length = (stream.length + s.variant.blockCap - 1) / s.variant.blockCap ∧
      (∀ k < blocks.length, ∃ chunk, chunk = (stream.drop (k * s.variant.blockCap)).take s.variant.blockCap ∧
        blkEnc s.variant s.txk (chunk ++ List.replicate (s.variant.blockCap - chunk.length) 0)
          (BitVec.ofNat 8 chunk.length) = .ok (blocks.getD k [])) ∧
      exec (.txFrame (longOf t content)) s
        = .next { s with txout := longOf t blocks.flatten, txCtr := s.nextTxCtr, resp := .done }

/-- R219: the length of the output, and the `usedLen` of every block as its trailer carries it: full blocks but for the
last, which carries the rest, never 0. -/
def Obligations.TxLengthLaw : Prop :=
  ∀ (s u : State) (t : Byte) (content : List Byte) (n nb : Nat), t = 0xC3 ∨ t = 0xC4 → TxWaiting s →
    content.length ≤ 65532 → exec (.txFrame (longOf t content)) s = .next u → u.fault = false →
    n = content.length + (if s.variant = .new then 1 else 0) →
    nb = (n + s.variant.blockCap - 1) / s.variant.blockCap →
    u.txout.length = 3 + nb * s.variant.encBlockSize ∧
    ∀ k < nb, ∃ used : Byte,
      used = trailerUsed s.variant ((u.txout.drop (3 + k * s.variant.encBlockSize)).take s.variant.encBlockSize) ∧
      used.toNat = (if k + 1 < nb then s.variant.blockCap else n - (nb - 1) * s.variant.blockCap) ∧
      1 ≤ used.toNat ∧ used.toNat ≤ s.variant.blockCap

/-- R211: the three checks on a submitted byte sequence, in their order. -/
def Obligations.TxValidation : Prop :=
  ∀ s : State, TxWaiting s →
    exec (.txFrame []) s = .next (s.haltedWith 5 1 0 5 s.txPos) ∧
    (∀ (t : Byte) (rest : List Byte), t ≠ 0xC1 → t ≠ 0xC2 → t ≠ 0xC3 → t ≠ 0xC4 →
      exec (.txFrame (t :: rest)) s = .next (s.haltedWith 1 1 (t.setWidth 32) 0 s.txPos)) ∧
    (∀ (t : Byte) (rest : List Byte), t = 0xC1 ∨ t = 0xC2 ∨ t = 0xC3 ∨ t = 0xC4 →
      (t :: rest).length < hdrLen t ∨ totalLen (t :: rest) ≠ (t :: rest).length →
      exec (.txFrame (t :: rest)) s = .next (s.haltedWith 5 1 (BitVec.ofNat 32 (t :: rest).length) 5 s.txPos))

/-- R213: an enciphered length above 65535 faults with that length, whatever the keys are; the largest contents that fit
are 47655 bytes in variant `new` and 55168 in variant `old`. -/
def Obligations.TxOversized : Prop :=
  (∀ (s : State) (t : Byte) (content : List Byte), t = 0xC3 ∨ t = 0xC4 → TxWaiting s → content.length ≤ 65532 →
    (s.variant = .new → 47655 < content.length →
      65535 < 3 + (content.length + 8) / 8 * 11 ∧ 3 + (content.length + 8) / 8 * 11 ≤ 90115 ∧
      exec (.txFrame (longOf t content)) s
        = .next (s.haltedWith 5 1 (BitVec.ofNat 32 (3 + (content.length + 8) / 8 * 11)) 2 s.txPos)) ∧
    (s.variant = .old → 55168 < content.length →
      65535 < 3 + (content.length + 31) / 32 * 38 ∧
      exec (.txFrame (longOf t content)) s
        = .next (s.haltedWith 5 1 (BitVec.ofNat 32 (3 + (content.length + 31) / 32 * 38)) 2 s.txPos)) ∧
    (KeysUsable s.variant s.txk →
      (s.variant = .new → content.length ≤ 47655 →
        ∃ u, exec (.txFrame (longOf t content)) s = .next u ∧ u.fault = false) ∧
      (s.variant = .old → content.length ≤ 55168 →
        ∃ u, exec (.txFrame (longOf t content)) s = .next u ∧ u.fault = false)))

/-- R327: a zero modulus in a slot below N of the bank the path reads: the lowest such slot, on either path. -/
def Obligations.InvalidKeyFault : Prop :=
  (∀ (s : State) (t : Byte) (content : List Byte) (i : Fin 16), t = 0xC3 ∨ t = 0xC4 → TxWaiting s →
    content.length ≤ 65532 → encipheredLen s.variant content.length ≤ 65535 → LowestZeroSlot s.variant s.txk i →
    exec (.txFrame (longOf t content)) s = .next (s.haltedWith 6 1 (BitVec.ofNat 32 i) 0 s.txPos)) ∧
  (∀ (s : State) (t : Byte) (mk : Half → List Byte → Instr) (e : List Byte) (i : Fin 16), CipherClass t mk →
    e.length ≤ 65532 → e.length % s.variant.encBlockSize = 0 → (s.variant = .new → e ≠ []) →
    LowestZeroSlot s.variant s.rxk i →
    EndsIn s t mk e (s.haltedWith 6 0 (BitVec.ofNat 32 i) 0 s.rxPos))

/-- R216, R217, R218: the byte on TXB with its count and flags, closing, aborting. -/
def Obligations.TxByteCloseAbort : Prop :=
  (∀ (s : State) (b : Byte) (rest : List Byte), s.fault = false → s.txout = b :: rest →
    ∃ t, exec .txByte s = .next t ∧ t = { s with txout := rest, txPos := s.txPos + 1, resp := .byte b } ∧
      (t.statusWord.getLsbD 7 = false ↔ rest = []) ∧
      (t.statusWord.getLsbD 9 = true ↔ s.txClosed = true ∧ rest = [])) ∧
  (∀ s : State, s.txEn = true → s.fault = false → s.txClosed = false →
    exec .txClose s = .next { s with txClosed := true, resp := .done } ∧
    exec .txAbort s = .next { s with txClosed := true, txout := [], resp := .done } ∧
    (∀ t, exec .txClose s = .next t → (t.txDone = true ↔ s.txout = [])) ∧
    (∀ t, exec .txAbort s = .next t → t.txDone = true))

/-- `tx.drain` (R121, R71): taking bytes until TXOUT is empty gives TXOUT in order, and counts each. -/
def Obligations.TxDrain : Prop :=
  ∀ s : State, s.fault = false →
    ∃ u, runAnswers (List.replicate s.txout.length .txByte) s = some (s.txout.map Response.byte, u) ∧
      SameButAnswer u { s with txout := [], txPos := s.txPos + BitVec.ofNat 64 s.txout.length }

/-- MODEL'S CHOICE for what an offered step does whose enabling condition is false (log entry 3, DESIGN CHOICE, after 93
U33): nothing, and the answer says so. The conditions are those of R181, R231, R238, R191, R192, R212, R216, R217,
R218. -/
def Obligations.PortStepsWait : Prop :=
  ∀ s : State,
    (∀ b, s.rxEn = false ∨ s.fault = true ∨ s.rxClosed = true ∨ s.rxState = .emit →
      exec (.rxByte b) s = .next { s with resp := .notReady }) ∧
    (s.rxEn = false ∨ s.fault = true ∨ s.rxState ≠ .emit ∨ s.outf ≠ none →
      exec .rxProcess s = .next { s with resp := .notReady }) ∧
    (s.fault = true ∨ s.outf = none → exec .rxDeliver s = .next { s with resp := .notReady }) ∧
    (s.rxEn = false ∨ s.fault = true ∨ s.rxClosed = true →
      exec .rxClose s = .next { s with resp := .notReady } ∧ exec .rxAbort s = .next { s with resp := .notReady }) ∧
    (∀ f, s.txEn = false ∨ s.fault = true ∨ s.txClosed = true ∨ s.txout ≠ [] →
      exec (.txFrame f) s = .next { s with resp := .notReady }) ∧
    (s.fault = true ∨ s.txout = [] → exec .txByte s = .next { s with resp := .notReady }) ∧
    (s.txEn = false ∨ s.fault = true ∨ s.txClosed = true →
      exec .txClose s = .next { s with resp := .notReady } ∧ exec .txAbort s = .next { s with resp := .notReady })

/-! ### Commands, registers, reset -/

/-- R265: CMD.CONN_RESET, from every state: the column "after CMD.CONN_RESET" of R46; STATUS reads 0 afterwards. -/
def Obligations.ConnReset : Prop :=
  ∀ s : State, ∃ t, exec .cmdConnReset s = .next t ∧ t.statusWord = 0 ∧
    t = { s with
      rxEn := false, txEn := false, rxCtr := 0, txCtr := 0, rxbuf := [], outf := none, txout := [], rxPos := 0,
      txPos := 0, rxClosed := false, txClosed := false, fault := false, errCode := 0, errInfo0 := 0, errInfo1 := 0,
      errPos := 0, warnCnt := 0, resp := .done }

/-- R360: RESET, from every state: every register reads 0, so CTRL, the banks, counters, positions, STATUS and the
fault information are 0; the buffers are empty; no port is ready or valid, no level is high. -/
def Obligations.ResetState : Prop :=
  ∀ s : State, ∃ t, exec .reset s = .next t ∧ t = { State.reset with sched := s.sched, resp := .done } ∧
    (∀ n : BitVec 12, CsrReads t n 0) ∧ t.rxbuf = [] ∧ t.outf = none ∧ t.txout = [] ∧ t.rxState = .awaitingHeader ∧
    t.faultO = false ∧ t.rxDone = false ∧ t.txDone = false ∧
    t.rxbReady = false ∧ t.rxfValid = false ∧ t.txfReady = false ∧ t.txbValid = false

/-- R264, R266, R267: CMD.NOP does nothing; the counter resets write 0, enabled or not, unless the core is halted. -/
def Obligations.NopAndCounterResets : Prop :=
  ∀ s : State,
    exec .cmdNop s = .next { s with resp := .done } ∧
    (s.fault = false →
      exec .cmdRxCtrReset s = .next { s with rxCtr := 0, resp := .done } ∧
      exec .cmdTxCtrReset s = .next { s with txCtr := 0, resp := .done }) ∧
    (s.fault = true →
      exec .cmdRxCtrReset s = .next { s with resp := .done } ∧ exec .cmdTxCtrReset s = .next { s with resp := .done })

/-- R268: CMD.BLK_ENC: the ciphertext in the first bytes of DCB and the others unchanged; the two faults in BLK_STATUS
only; ignored unless idle and running. MODEL'S CHOICE (log entry 20, DEDUCED): where both checks fail the size fault is
reported, as in R153's pseudocode, although R152 has the key check "first". -/
def Obligations.CmdBlkEncResult : Prop :=
  ∀ s : State,
    (s.fault = false → s.rxEn = false → s.txEn = false →
      (s.blkLen.toNat ≤ s.variant.blockCap → KeysUsable s.variant s.txk →
        ∃ (c : List Byte) (d : Vector Byte 38),
          blkEnc s.variant s.txk (s.dpb.toList.take s.variant.blockCap) s.blkLen = .ok c ∧
          exec .cmdBlkEnc s = .next { s with dcb := d, blkStatus := 0, resp := .done } ∧
          c.length = s.variant.encBlockSize ∧
          ∀ k : Fin 38, d[k] = if k.val < s.variant.encBlockSize then c.getD k 0 else s.dcb[k]) ∧
      (s.variant.blockCap < s.blkLen.toNat →
        exec .cmdBlkEnc s = .next { s with blkStatus := 2 ||| (s.blkLen.setWidth 32 <<< 16), resp := .done }) ∧
      (∀ i, s.blkLen.toNat ≤ s.variant.blockCap → LowestZeroSlot s.variant s.txk i →
        exec .cmdBlkEnc s = .next { s with blkStatus := 6 ||| (BitVec.ofNat 32 i <<< 16), resp := .done })) ∧
    (s.fault = true ∨ s.rxEn = true ∨ s.txEn = true → exec .cmdBlkEnc s = .next { s with resp := .done })

/-- R269: CMD.BLK_DEC: the plaintext in the first bytes of DPB and the others unchanged, BLK_LEN, WARNED; the three
faults in BLK_STATUS only; ignored unless idle and running. -/
def Obligations.CmdBlkDecResult : Prop :=
  ∀ (s : State) (c : List Byte), c = s.dcb.toList.take s.variant.encBlockSize →
    (s.fault = false → s.rxEn = false → s.txEn = false →
      (∀ x : Decoded, blkDec s.variant s.rxk c s.lenient = .ok x →
        ∃ d : Vector Byte 32,
          exec .cmdBlkDec s = .next { s with
            dpb := d, blkLen := x.usedLen, blkStatus := if x.warned then 0x100 else 0, resp := .done } ∧
          ∀ k : Fin 32, d[k] = if k.val < s.variant.blockCap then x.plain.getD k 0 else s.dpb[k]) ∧
      (∀ i, LowestZeroSlot s.variant s.rxk i →
        exec .cmdBlkDec s = .next { s with blkStatus := 6 ||| (BitVec.ofNat 32 i <<< 16), resp := .done }) ∧
      (KeysUsable s.variant s.rxk → s.variant.blockCap < (trailerUsed s.variant c).toNat →
        exec .cmdBlkDec s
          = .next { s with blkStatus := 2 ||| ((trailerUsed s.variant c).setWidth 32 <<< 16), resp := .done }) ∧
      (∀ computed received : Byte, KeysUsable s.variant s.rxk → s.lenient = false →
        (trailerUsed s.variant c).toNat ≤ s.variant.blockCap →
        computed = csum (decPlain s.variant s.rxk c) (trailerUsed s.variant c).toNat →
        received = c.getD (s.variant.encBlockSize - 1) 0 → computed ≠ received →
        exec .cmdBlkDec s = .next { s with
          blkStatus := 3 ||| (((computed.setWidth 32 <<< 8) ||| received.setWidth 32) <<< 16), resp := .done })) ∧
    (s.fault = true ∨ s.rxEn = true ∨ s.txEn = true → exec .cmdBlkDec s = .next { s with resp := .done })

/-- R270, R271: CMD.PACK18 replaces the 18 bits of field PK_SLOT of DCB by PK_VAL and no other bit, CMD.UNPACK18 takes
them out, in either variant; ignored unless idle and running. Which bit of PK_VAL stands where (`valueBit`) is the layout
that the spec gives "from general knowledge, not in source" (R98, R135, 93 G1; log entry 13). -/
def Obligations.CmdPackUnpack : Prop :=
  ∀ s : State,
    (s.fault = false → s.rxEn = false → s.txEn = false →
      (∃ d : Vector Byte 38, exec .cmdPack18 s = .next { s with dcb := d, blkStatus := 0, resp := .done } ∧
        d.toList = pack18 s.dcb.toList s.pkSlot.toNat (s.pkVal.setWidth 32) ∧
        (∀ pos < 304, streamBit d.toList pos =
          if 18 * s.pkSlot.toNat ≤ pos ∧ pos < 18 * s.pkSlot.toNat + 18 then
            (swap18 s.pkVal).getLsbD (17 - (pos - 18 * s.pkSlot.toNat))
          else streamBit s.dcb.toList pos) ∧
        ∀ k < 18, streamBit d.toList (18 * s.pkSlot.toNat + k) = s.pkVal.getLsbD (valueBit k)) ∧
      (∃ v : Field, exec .cmdUnpack18 s = .next { s with pkVal := v, blkStatus := 0, resp := .done } ∧
        v = unpack18 s.dcb.toList s.pkSlot.toNat ∧
        (∀ k < 18, (swap18 v).getLsbD (17 - k) = streamBit s.dcb.toList (18 * s.pkSlot.toNat + k)) ∧
        ∀ k < 18, v.getLsbD (valueBit k) = streamBit s.dcb.toList (18 * s.pkSlot.toNat + k))) ∧
    (s.fault = true ∨ s.rxEn = true ∨ s.txEn = true →
      exec .cmdPack18 s = .next { s with resp := .done } ∧ exec .cmdUnpack18 s = .next { s with resp := .done })

/-- R260: CSR.RD, from every state, of every number: the value by the map of R30 and the layouts of R31 to R40, 0 for an
unmapped number and for CMD; nothing else changes. -/
def Obligations.CsrReadMap : Prop :=
  ∀ s : State,
    (∃ v, CsrReads s 0x000 v ∧
      v = (if s.variant = .old then 1 else 0) + (if s.lenient then 2 else 0) + (if s.rxEn then 4 else 0)
        + (if s.txEn then 8 else 0)) ∧
    CsrReads s 0x001 s.statusWord ∧ CsrReads s 0x002 s.errCode ∧ CsrReads s 0x003 s.errInfo0 ∧
    CsrReads s 0x004 s.errInfo1 ∧ CsrReads s 0x005 (s.errPos.setWidth 32) ∧
    CsrReads s 0x006 ((s.errPos >>> 32).setWidth 32) ∧ CsrReads s 0x007 (s.rxCtr.setWidth 32) ∧
    CsrReads s 0x008 (s.txCtr.setWidth 32) ∧ CsrReads s 0x009 (s.rxPos.setWidth 32) ∧
    CsrReads s 0x00A ((s.rxPos >>> 32).setWidth 32) ∧ CsrReads s 0x00B (s.txPos.setWidth 32) ∧
    CsrReads s 0x00C ((s.txPos >>> 32).setWidth 32) ∧ CsrReads s 0x00D s.warnCnt ∧
    CsrReads s 0x00E (BitVec.ofNat 32 (rxRemainOf s.rxbuf)) ∧ CsrReads s 0x00F 0 ∧
    CsrReads s 0x010 (s.blkLen.setWidth 32) ∧ CsrReads s 0x011 s.blkStatus ∧ CsrReads s 0x012 (s.pkSlot.setWidth 32) ∧
    CsrReads s 0x013 (s.pkVal.setWidth 32) ∧
    (∀ k : Fin 32, ∃ v, CsrReads s (0x020 + BitVec.ofNat 12 (k / 4)) v ∧ v.extractLsb' (8 * (k % 4)) 8 = s.dpb[k]) ∧
    (∀ k : Fin 38, ∃ v, CsrReads s (0x030 + BitVec.ofNat 12 (k / 4)) v ∧ v.extractLsb' (8 * (k % 4)) 8 = s.dcb[k]) ∧
    (∃ v, CsrReads s 0x039 v ∧ v.extractLsb' 16 16 = 0) ∧
    (∀ i : Fin 16,
      CsrReads s (0x100 + BitVec.ofNat 12 i) s.txk.mod[i] ∧ CsrReads s (0x110 + BitVec.ofNat 12 i) s.txk.enc[i] ∧
      CsrReads s (0x120 + BitVec.ofNat 12 i) s.txk.dec[i] ∧ CsrReads s (0x130 + BitVec.ofNat 12 i) s.txk.xork[i] ∧
      CsrReads s (0x200 + BitVec.ofNat 12 i) s.rxk.mod[i] ∧ CsrReads s (0x210 + BitVec.ofNat 12 i) s.rxk.enc[i] ∧
      CsrReads s (0x220 + BitVec.ofNat 12 i) s.rxk.dec[i] ∧ CsrReads s (0x230 + BitVec.ofNat 12 i) s.rxk.xork[i]) ∧
    (∀ n, Unmapped n → CsrReads s n 0)

/-- R32: every bit of STATUS, and that a write of it is ignored. -/
def Obligations.StatusFields : Prop :=
  ∀ s : State, CsrReads s 0x001 s.statusWord ∧ (∀ v, CsrWrites s 0x001 v s) ∧
    (s.statusWord.getLsbD 0 = true ↔ s.fault = true) ∧ (s.statusWord.getLsbD 1 = true ↔ s.warnCnt ≠ 0) ∧
    (s.statusWord.getLsbD 2 = true ↔ s.rxClosed = true) ∧ (s.statusWord.getLsbD 3 = true ↔ s.txClosed = true) ∧
    (s.statusWord.extractLsb' 4 2 = match s.rxState with
      | .awaitingHeader => 0
      | .awaitingContent => 1
      | .emit => 2) ∧
    (s.statusWord.getLsbD 6 = true ↔ s.outf ≠ none) ∧ (s.statusWord.getLsbD 7 = true ↔ s.txout ≠ []) ∧
    (s.statusWord.getLsbD 8 = true ↔ s.rxClosed = true ∧ s.rxbuf = [] ∧ s.outf = none) ∧
    (s.statusWord.getLsbD 9 = true ↔ s.txClosed = true ∧ s.txout = []) ∧ s.statusWord.extractLsb' 10 22 = 0

/-- R261, the storage the host may always write: BLK_LEN, PK_SLOT, PK_VAL with their reserved bits ignored, and the byte
lanes of DPB and DCB, of which DCB9 has two; and the read-only registers (R30) and the numbers that are no register
(R115), of which a write changes nothing. MODEL'S CHOICE (log entry 18, DEDUCED): BLK_STATUS, number 0x011, is one of the
read-only registers, as R30 and R261 say, although R38 calls it written by the host. -/
def Obligations.CsrWriteStorage : Prop :=
  ∀ (s : State) (v : Word),
    (∀ n : BitVec 12,
      (0x001 ≤ n.toNat ∧ n.toNat ≤ 0x006) ∨ (0x009 ≤ n.toNat ∧ n.toNat ≤ 0x00E) ∨ n = 0x011 ∨ Unmapped n →
      CsrWrites s n v s) ∧
    CsrWrites s 0x010 v { s with blkLen := v.setWidth 8 } ∧ CsrWrites s 0x012 v { s with pkSlot := v.setWidth 4 } ∧
    CsrWrites s 0x013 v { s with pkVal := v.setWidth 18 } ∧
    (∀ r : Fin 8, ∃ d : Vector Byte 32, CsrWrites s (0x020 + BitVec.ofNat 12 r) v { s with dpb := d } ∧
      ∀ k : Fin 32, d[k] = if k.val / 4 = r.val then v.extractLsb' (8 * (k % 4)) 8 else s.dpb[k]) ∧
    (∀ r : Fin 10, ∃ d : Vector Byte 38, CsrWrites s (0x030 + BitVec.ofNat 12 r) v { s with dcb := d } ∧
      ∀ k : Fin 38, d[k] = if k.val / 4 = r.val then v.extractLsb' (8 * (k % 4)) 8 else s.dcb[k])

/-- R261, the registers that lock: a counter and a key register are written while their own path is disabled (halted or
not), and a write is ignored while it is enabled. -/
def Obligations.CsrWriteLocks : Prop :=
  ∀ (s : State) (v : Word) (i : Fin 16),
    (s.rxEn = false →
      CsrWrites s 0x007 v { s with rxCtr := v.setWidth 8 } ∧
      CsrWrites s (0x200 + BitVec.ofNat 12 i) v { s with rxk := { s.rxk with mod := s.rxk.mod.set i v } } ∧
      CsrWrites s (0x210 + BitVec.ofNat 12 i) v { s with rxk := { s.rxk with enc := s.rxk.enc.set i v } } ∧
      CsrWrites s (0x220 + BitVec.ofNat 12 i) v { s with rxk := { s.rxk with dec := s.rxk.dec.set i v } } ∧
      CsrWrites s (0x230 + BitVec.ofNat 12 i) v { s with rxk := { s.rxk with xork := s.rxk.xork.set i v } }) ∧
    (s.rxEn = true → CsrWrites s 0x007 v s ∧
      ∀ n : BitVec 12, 0x200 ≤ n.toNat → n.toNat < 0x240 → CsrWrites s n v s) ∧
    (s.txEn = false →
      CsrWrites s 0x008 v { s with txCtr := v.setWidth 8 } ∧
      CsrWrites s (0x100 + BitVec.ofNat 12 i) v { s with txk := { s.txk with mod := s.txk.mod.set i v } } ∧
      CsrWrites s (0x110 + BitVec.ofNat 12 i) v { s with txk := { s.txk with enc := s.txk.enc.set i v } } ∧
      CsrWrites s (0x120 + BitVec.ofNat 12 i) v { s with txk := { s.txk with dec := s.txk.dec.set i v } } ∧
      CsrWrites s (0x130 + BitVec.ofNat 12 i) v { s with txk := { s.txk with xork := s.txk.xork.set i v } }) ∧
    (s.txEn = true → CsrWrites s 0x008 v s ∧
      ∀ n : BitVec 12, 0x100 ≤ n.toNat → n.toNat < 0x140 → CsrWrites s n v s)

/-- R262: a write of CTRL: VARIANT and LENIENT while both paths were disabled before it, a 1 sets an enable bit, a 0
clears none, and nothing else changes. -/
def Obligations.CtrlWrite : Prop :=
  ∀ (s : State) (v : Word),
    CsrWrites s 0x000 v { s with
      variant := if s.rxEn = false ∧ s.txEn = false then (if v.getLsbD 0 then .old else .new) else s.variant
      lenient := if s.rxEn = false ∧ s.txEn = false then v.getLsbD 1 else s.lenient
      rxEn := if v.getLsbD 2 = true then true else s.rxEn
      txEn := if v.getLsbD 3 = true then true else s.txEn }

/-- R37, R110: a write of CMD performs, within that step, the command of bits 7:0, whatever bits 31:8 are; R111: a
reserved code does nothing; CMD reads 0. -/
def Obligations.CommandWrites : Prop :=
  ∀ (s : State) (v : Word),
    CsrReads s 0x00F 0 ∧
    (v.setWidth 8 = 0x00#8 → exec (.csrWr 0x00F v) s = exec .cmdNop s) ∧
    (v.setWidth 8 = 0x01#8 → exec (.csrWr 0x00F v) s = exec .cmdConnReset s) ∧
    (v.setWidth 8 = 0x02#8 → exec (.csrWr 0x00F v) s = exec .cmdRxCtrReset s) ∧
    (v.setWidth 8 = 0x03#8 → exec (.csrWr 0x00F v) s = exec .cmdTxCtrReset s) ∧
    (v.setWidth 8 = 0x10#8 → exec (.csrWr 0x00F v) s = exec .cmdBlkEnc s) ∧
    (v.setWidth 8 = 0x11#8 → exec (.csrWr 0x00F v) s = exec .cmdBlkDec s) ∧
    (v.setWidth 8 = 0x12#8 → exec (.csrWr 0x00F v) s = exec .cmdPack18 s) ∧
    (v.setWidth 8 = 0x13#8 → exec (.csrWr 0x00F v) s = exec .cmdUnpack18 s) ∧
    (((0x04 ≤ (v.setWidth 8).toNat ∧ (v.setWidth 8).toNat ≤ 0x0F) ∨ 0x14 ≤ (v.setWidth 8).toNat) →
      CsrWrites s 0x00F v s)

/-! ### The whole machine -/

/-- Every step keeps the invariant: RXBUF never beyond its frame (R183), OUTF a whole frame (R25), TXOUT bounded (R28), a
halted core without data and with a cause 1..6 (R330, R321), a running one without fault information (R33), an idle path
without data (R61), no partial frame after a close (R191), warnings in lenient mode only (R237), the reserved bits of BLK_STATUS 0
(R38; that the host does not write BLK_STATUS is log entry 18). -/
def Obligations.InvariantKept : Prop :=
  ∀ s t : State, Inv s → step s = .next t → Inv t

/-- The state after reset has the invariant. -/
def Obligations.InvariantAtReset : Prop :=
  Inv State.reset

/-- R330: whatever raises a fault, the state after it is the state before the step plus the writes of fault entry: a cause
1..6, DIR 1 exactly for TX.FRAME, the position of that path, the three buffers emptied; fault_o goes high; and while the
core is halted nothing raises a fault. -/
def Obligations.FaultEntry : Prop :=
  ∀ (i : Instr) (s t : State), exec i s = .next t →
    (s.fault = false → t.fault = true →
      ∃ code dir info0 info1 : Word, 1 ≤ code.toNat ∧ code.toNat ≤ 6 ∧ (dir = 0 ∨ dir = 1) ∧
        (dir = 1 ↔ ∃ f, i = .txFrame f) ∧ t.faultO = true ∧
        t = s.haltedWith code dir info0 info1 (if dir = 0 then s.rxPos else s.txPos)) ∧
    (s.fault = true → t.resp ≠ .faulted)

/-- R331, R332: in the halted state no step of RX or TX does anything, no stream port is ready or valid, and only RESET
and CMD.CONN_RESET (or the register write that is that command) leave it, to a running core at position 0 with all three
buffers empty and both paths open: every other instruction keeps FAULT, the fault information, the positions, the close
flags and the buffers as they are. That the micro-operations are among them is the model's choice (log entry 19). -/
def Obligations.HaltedState : Prop :=
  ∀ (i : Instr) (s : State), s.fault = true →
    (s.rxbReady = false ∧ s.rxfValid = false ∧ s.txfReady = false ∧ s.txbValid = false) ∧
    (isRxInstr i = true ∨ isTxInstr i = true → ∃ r, exec i s = .next { s with resp := r }) ∧
    (∀ t, isResetInstr i = false → exec i s = .next t →
      t.fault = true ∧ SameFaultInfo t s ∧ t.rxPos = s.rxPos ∧ t.txPos = s.txPos ∧ t.rxClosed = s.rxClosed ∧
      t.txClosed = s.txClosed ∧ t.rxbuf = s.rxbuf ∧ t.outf = s.outf ∧ t.txout = s.txout ∧ t.warnCnt = s.warnCnt) ∧
    (∀ t, isResetInstr i = true → exec i s = .next t →
      t.fault = false ∧ t.rxbuf = [] ∧ t.outf = none ∧ t.txout = [] ∧ t.rxPos = 0 ∧ t.txPos = 0 ∧
      t.rxClosed = false ∧ t.txClosed = false)

/-- R371, R31, R34, R40: while a path is enabled no instruction but the two resets clears its enable bit or changes its
keys, VARIANT or LENIENT, and its counter only stays, becomes 0 by the reset command of that counter while the core runs
(the command itself or the register write that is it), or advances by 1 in variant `new` by a step of that path. -/
def Obligations.EnabledPathLocked : Prop :=
  ∀ (i : Instr) (s t : State), isResetInstr i = false → exec i s = .next t →
    (s.rxEn = true → t.rxEn = true ∧ t.rxk = s.rxk ∧ t.variant = s.variant ∧ t.lenient = s.lenient ∧
      (t.rxCtr = s.rxCtr ∨ (t.rxCtr = 0 ∧ s.fault = false ∧
        (i = .cmdRxCtrReset ∨ ∃ v, i = .csrWr 0x00F v ∧ v.setWidth 8 = 0x02#8)) ∨
        (t.rxCtr = s.rxCtr + 1 ∧ s.variant = .new ∧ isRxInstr i = true))) ∧
    (s.txEn = true → t.txEn = true ∧ t.txk = s.txk ∧ t.variant = s.variant ∧ t.lenient = s.lenient ∧
      (t.txCtr = s.txCtr ∨ (t.txCtr = 0 ∧ s.fault = false ∧
        (i = .cmdTxCtrReset ∨ ∃ v, i = .csrWr 0x00F v ∧ v.setWidth 8 = 0x03#8)) ∨
        (t.txCtr = s.txCtr + 1 ∧ s.variant = .new ∧ ∃ f, i = .txFrame f)))

/-- R73, R21: a step of one path that raises no fault changes nothing of the other path and no configuration; one that
does raise a fault changes of the other path only the buffers. -/
def Obligations.PathsWriteApart : Prop :=
  ∀ (i : Instr) (s t : State), exec i s = .next t →
    (isRxInstr i = true →
      t.txEn = s.txEn ∧ t.txk = s.txk ∧ t.rxk = s.rxk ∧ t.rxEn = s.rxEn ∧ t.variant = s.variant ∧
      t.lenient = s.lenient ∧ t.txCtr = s.txCtr ∧ t.txPos = s.txPos ∧ t.txClosed = s.txClosed ∧
      (t.fault = s.fault → t.txout = s.txout)) ∧
    (isTxInstr i = true →
      t.rxEn = s.rxEn ∧ t.rxk = s.rxk ∧ t.txk = s.txk ∧ t.txEn = s.txEn ∧ t.variant = s.variant ∧
      t.lenient = s.lenient ∧ t.rxCtr = s.rxCtr ∧ t.rxPos = s.rxPos ∧ t.rxClosed = s.rxClosed ∧
      t.warnCnt = s.warnCnt ∧ (t.fault = s.fault → t.rxbuf = s.rxbuf ∧ t.outf = s.outf))

/-- R21, R40: what a TX step does to the TX path, its answer and the fault it raises depend on the TX path only: not on
RXK, RX_CTR, the RX buffers, LENIENT, nor on TXK.DEC; and an RX step's on the RX path only: not on TXK, TX_CTR, TXOUT, nor
on RXK.ENC. -/
def Obligations.PathsReadApart : Prop :=
  ∀ (i : Instr) (s s' t t' : State), exec i s = .next t → exec i s' = .next t' →
    (isTxInstr i = true → TxAgree s s' →
      TxAgree t t' ∧ t.resp = t'.resp ∧ (s.fault = false → t.fault = true → SameFaultInfo t t')) ∧
    (isRxInstr i = true → RxAgree s s' →
      RxAgree t t' ∧ t.resp = t'.resp ∧ (s.fault = false → t.fault = true → SameFaultInfo t t'))

/-! ### The codec -/

/-- R150: MODMUL on 32-bit operands, for a modulus that is not 0, is exact, through a 64-bit product; the result is below
the modulus. That it answers in a halted core too is the model's choice (log entry 19). -/
def Obligations.ModmulExact : Prop :=
  ∀ (s : State) (a k m : Word), m ≠ 0 → ∃ x : Word, exec (.modmul a k m) s = .next { s with resp := .word x } ∧
    x.toNat = (a.toNat * k.toNat) % m.toNat ∧ x.toNat < m.toNat

/-- R151: CSUM is 0xF8 XOR the XOR-fold of the first `n` bytes, for `n <= |P|`. That it answers in a halted core too is
the model's choice (log entry 19). -/
def Obligations.CsumFold : Prop :=
  ∀ (s : State) (p : List Byte) (n : Nat), n ≤ p.length →
    exec (.csum p n) s = .next { s with resp := .byte (0xF8 ^^^ (p.take n).foldr (· ^^^ ·) 0) }

/-- R136, R137: PACK18 replaces exactly the 18 bits of field `i` by `swap18` of bits 17:0 of the value, most significant
first, and UNPACK18 reads them back through `unswap18`, for a buffer that holds the field. Bit by bit: position `k` of the
field holds bit `valueBit k` of the value, the layout that the spec gives "from general knowledge, not in source" (R98,
R135, 93 G1; log entry 13). That they answer in a halted core too is the model's choice (log entry 19). -/
def Obligations.PackUnpackBits : Prop :=
  ∀ (s : State) (b : List Byte) (i : BitVec 4) (v : Word), 18 * i.toNat / 8 + 3 ≤ b.length →
    (∃ b' : List Byte, exec (.pack18 b i v) s = .next { s with resp := .bytes b' } ∧ b'.length = b.length ∧
      (∀ pos < 8 * b.length, (b'.getD (pos / 8) 0).getLsbD (7 - pos % 8) =
        if 18 * i.toNat ≤ pos ∧ pos < 18 * i.toNat + 18 then
          (swap18 (v.setWidth 18)).getLsbD (17 - (pos - 18 * i.toNat))
        else (b.getD (pos / 8) 0).getLsbD (7 - pos % 8)) ∧
      ∀ k < 18, (b'.getD ((18 * i.toNat + k) / 8) 0).getLsbD (7 - (18 * i.toNat + k) % 8) = v.getLsbD (valueBit k)) ∧
    (∃ f p : Field, exec (.unpack18 b i) s = .next { s with resp := .field f } ∧ f = unswap18 p ∧
      (∀ k < 18, p.getLsbD (17 - k) = (b.getD ((18 * i.toNat + k) / 8) 0).getLsbD (7 - (18 * i.toNat + k) % 8)) ∧
      ∀ k < 18, f.getLsbD (valueBit k) = (b.getD ((18 * i.toNat + k) / 8) 0).getLsbD (7 - (18 * i.toNat + k) % 8))

/-- MODEL'S CHOICE (log entries 7, 8 and 19): a micro-operation whose operand is outside the domain its rule states still
answers, and changes nothing else: for a zero modulus some word, beyond the bytes some byte, for a buffer or a block of
another size some bytes, field or block, all free values. The checks of R153 and R154 that do not read the block are
made, the size before the keys in BLK.ENC (log entry 20, DEDUCED), whose trailer is computed; with usable keys BLK.DEC answers a block or one of
the two faults of the trailer. -/
def Obligations.MicroOutsideDomain : Prop :=
  ∀ s : State,
    (∀ a k : Word, ∃ x, exec (.modmul a k 0) s = .next { s with resp := .word x }) ∧
    (∀ (p : List Byte) (n : Nat), p.length < n → ∃ c, exec (.csum p n) s = .next { s with resp := .byte c }) ∧
    (∀ (b : List Byte) (i : BitVec 4) (v : Word), b.length < 18 * i.toNat / 8 + 3 →
      (∃ b', exec (.pack18 b i v) s = .next { s with resp := .bytes b' }) ∧
      (∃ f, exec (.unpack18 b i) s = .next { s with resp := .field f })) ∧
    (∀ (bank : Bank) (p : List Byte) (u : Byte), p.length ≠ s.variant.blockCap →
      (s.variant.blockCap < u.toNat →
        exec (.blkEnc bank p u) s = .next { s with resp := .raised ⟨.invalidBlockSize, u.setWidth 32, 0⟩ }) ∧
      (u.toNat ≤ s.variant.blockCap → KeysUsable s.variant (s.bank bank) →
        ∃ (body : List Byte) (c : Byte), (u.toNat ≤ p.length → c = csum p u.toNat) ∧
          exec (.blkEnc bank p u) s = .next { s with resp := .bytes (body ++ [u ^^^ 0x3D ^^^ c, c]) }) ∧
      (∀ i : Fin 16, u.toNat ≤ s.variant.blockCap → LowestZeroSlot s.variant (s.bank bank) i →
        exec (.blkEnc bank p u) s = .next { s with resp := .raised ⟨.invalidKey, BitVec.ofNat 32 i, 0⟩ })) ∧
    (∀ (bank : Bank) (c : List Byte) (l : Bool), c.length ≠ s.variant.encBlockSize →
      (∀ i : Fin 16, LowestZeroSlot s.variant (s.bank bank) i →
        exec (.blkDec bank c l) s = .next { s with resp := .raised ⟨.invalidKey, BitVec.ofNat 32 i, 0⟩ }) ∧
      (KeysUsable s.variant (s.bank bank) →
        ∃ r, exec (.blkDec bank c l) s = .next { s with resp := r } ∧
          ((∃ (p : List Byte) (u : Byte) (w : Bool), r = .block p u w ∧ u.toNat ≤ s.variant.blockCap ∧
              (w = true → l = true)) ∨
            (∃ u : Byte, r = .raised ⟨.invalidBlockSize, u.setWidth 32, 0⟩ ∧ s.variant.blockCap < u.toNat) ∨
            ∃ sum last : Byte, l = false ∧ sum ≠ last ∧
              r = .raised ⟨.invalidBlockChecksum, (sum.setWidth 32 <<< 8) ||| last.setWidth 32, 0⟩)))

/-- R138: the byte-level form of PACK18 and UNPACK18, with the masks of R133 and R134, equals the bit-level one, for
every buffer, slot and value. -/
def Obligations.ByteFormAgrees : Prop :=
  ∀ (b : List Byte) (i : BitVec 4) (v : Word), 18 * i.toNat / 8 + 3 ≤ b.length →
    pack18Bytes b i.toNat v = pack18 b i.toNat v ∧ unpack18Bytes b i.toNat = unpack18 b i.toNat

/-- R139: the five laws of packing. -/
def Obligations.PackLaws : Prop :=
  ∀ (b : List Byte) (i : BitVec 4) (v : Word), 18 * i.toNat / 8 + 3 ≤ b.length →
    unpack18 (pack18 b i.toNat v) i.toNat = v.setWidth 18 ∧
    pack18 b i.toNat ((unpack18 b i.toNat).setWidth 32) = b ∧
    (∀ k, k < 18 * i.toNat / 8 ∨ 18 * i.toNat / 8 + 2 < k → (pack18 b i.toNat v).getD k 0 = b.getD k 0) ∧
    ∀ (j : BitVec 4) (u : Word), j ≠ i → 18 * j.toNat / 8 + 3 ≤ b.length →
      unpack18 (pack18 b i.toNat v) j.toNat = unpack18 b j.toNat ∧
      pack18 (pack18 b i.toNat v) j.toNat u = pack18 (pack18 b j.toNat u) i.toNat v

/-- R140: packing N values into N fields and taking them out gives their low 18 bits, and fills 9 or 36 bytes
exactly. -/
def Obligations.PackAllRoundTrip : Prop :=
  ∀ (n : Nat) (r : List Word), n = 4 ∨ n = 16 → r.length = n →
    unpackAll n (packAll n r) = r.map (fun x => (x.setWidth 18).setWidth 32) ∧
    (packAll n r).length = (if n = 4 then 9 else 36)

/-- R153: BLK.ENC, by its formulas over the natural numbers: the products `r`, chained through the low 16 bits of the one
before; the fold with the un-folded next one; the packing; the trailer; the two faults in their order. MODEL'S CHOICE
(log entry 20, DEDUCED): where both checks fail the size fault is raised, as in R153's pseudocode, although R152 has the
key check "first". That it answers in a halted core too is the model's choice (log entry 19). -/
def Obligations.BlkEncFormula : Prop :=
  ∀ (s : State) (bank : Bank) (p : List Byte) (usedLen : Byte), p.length = s.variant.blockCap →
    (s.variant.blockCap < usedLen.toNat →
      exec (.blkEnc bank p usedLen) s
        = .next { s with resp := .raised ⟨.invalidBlockSize, usedLen.setWidth 32, 0⟩ }) ∧
    (∀ i : Fin 16, usedLen.toNat ≤ s.variant.blockCap → LowestZeroSlot s.variant (s.bank bank) i →
      exec (.blkEnc bank p usedLen) s = .next { s with resp := .raised ⟨.invalidKey, BitVec.ofNat 32 i, 0⟩ }) ∧
    (usedLen.toNat ≤ s.variant.blockCap → KeysUsable s.variant (s.bank bank) →
      ∃ (r g : Nat → Word) (c : Byte) (out : List Byte),
        (∀ i : Fin 16, i.val < s.variant.slotCount → (r i).toNat =
          ((s.bank bank).xork[i] ^^^ ((p.getD (2 * i + 1) 0 ++ p.getD (2 * i) 0)
            ^^^ (if i.val = 0 then 0 else (r (i - 1)).setWidth 16)).setWidth 32).toNat
            * (s.bank bank).enc[i].toNat % (s.bank bank).mod[i].toNat) ∧
        (∀ i : Fin 16, i.val < s.variant.slotCount → g i =
          if i.val + 1 < s.variant.slotCount then r i ^^^ (s.bank bank).xork[i] ^^^ (r (i + 1) &&& 0xFFFF)
          else r i) ∧
        c = csum p usedLen.toNat ∧
        out = packAll s.variant.slotCount ((List.range s.variant.slotCount).map g) ++ [usedLen ^^^ 0x3D ^^^ c, c] ∧
        exec (.blkEnc bank p usedLen) s = .next { s with resp := .bytes out })

/-- R154: BLK.DEC, by its formulas over the natural numbers: the un-fold from the last slot down, the words, the trailer,
the key check first, size before checksum, the lenient warning. That it answers in a halted core too is the model's choice
(log entry 19). -/
def Obligations.BlkDecFormula : Prop :=
  ∀ (s : State) (bank : Bank) (c : List Byte) (lenient : Bool), c.length = s.variant.encBlockSize →
    (∀ i : Fin 16, LowestZeroSlot s.variant (s.bank bank) i →
      exec (.blkDec bank c lenient) s = .next { s with resp := .raised ⟨.invalidKey, BitVec.ofNat 32 i, 0⟩ }) ∧
    (KeysUsable s.variant (s.bank bank) →
      ∃ (r m : Nat → Word) (w : Nat → Half) (p : List Byte) (used sum last : Byte) (a : Response),
        (∀ i : Fin 16, i.val < s.variant.slotCount → r i =
          if i.val + 1 < s.variant.slotCount then
            (unpack18 c i).setWidth 32 ^^^ (s.bank bank).xork[i] ^^^ (r (i + 1) &&& 0xFFFF)
          else (unpack18 c i).setWidth 32) ∧
        (∀ i : Fin 16, i.val < s.variant.slotCount →
          (m i).toNat = (r i).toNat * (s.bank bank).dec[i].toNat % (s.bank bank).mod[i].toNat ∧
          w i = ((s.bank bank).xork[i] ^^^ m i ^^^ (if i.val = 0 then 0 else r (i - 1) &&& 0xFFFF)).setWidth 16) ∧
        p = (List.range s.variant.slotCount).flatMap (fun i => [(w i).extractLsb' 0 8, (w i).extractLsb' 8 8]) ∧
        used = trailerUsed s.variant c ∧ sum = csum p used.toNat ∧ last = c.getD (s.variant.encBlockSize - 1) 0 ∧
        a = (if s.variant.blockCap < used.toNat then .raised ⟨.invalidBlockSize, used.setWidth 32, 0⟩
          else if sum = last then .block p used false
          else if lenient then .block p used true
          else .raised ⟨.invalidBlockChecksum, (sum.setWidth 32 <<< 8) ||| last.setWidth 32, 0⟩) ∧
        exec (.blkDec bank c lenient) s = .next { s with resp := a })

/-- R155: with a matching pair of banks, decoding an encoded block gives back the block, its used length and no warning,
for every block and every used length, in both variants. -/
def Obligations.BlockRoundTrip : Prop :=
  ∀ (v : Variant) (e d : KeyBank) (p : List Byte) (usedLen : Byte) (lenient : Bool),
    MatchingPair v e d → p.length = v.blockCap → usedLen.toNat ≤ v.blockCap →
    ∃ c, blkEnc v e p usedLen = .ok c ∧ blkDec v d c lenient = .ok ⟨p, usedLen, false⟩

/-- R158: what a flip of bit `b` in the checksum byte of a valid block does, and of bit `b` in both trailer bytes. -/
def Obligations.TrailerFlip : Prop :=
  ∀ (v : Variant) (bank : KeyBank) (c : List Byte) (p : List Byte) (u last : Byte) (b : Nat) (used' sum' : Byte),
    c.length = v.encBlockSize → blkDec v bank c false = .ok ⟨p, u, false⟩ → b < 8 →
    last = c.getD (v.encBlockSize - 1) 0 → used' = u ^^^ (1#8 <<< b) → sum' = csum p used'.toNat →
    (v.blockCap < used'.toNat → ∀ lenient,
      blkDec v bank (c.set (v.encBlockSize - 1) (last ^^^ (1#8 <<< b))) lenient
        = .error ⟨.invalidBlockSize, used'.setWidth 32, 0⟩) ∧
    (used'.toNat ≤ v.blockCap →
      ((p.drop (min u.toNat used'.toNat)).take (max u.toNat used'.toNat - min u.toNat used'.toNat)).foldr
        (· ^^^ ·) 0 = 1#8 <<< b → ∀ lenient,
      blkDec v bank (c.set (v.encBlockSize - 1) (last ^^^ (1#8 <<< b))) lenient = .ok ⟨p, used', false⟩) ∧
    (used'.toNat ≤ v.blockCap →
      ((p.drop (min u.toNat used'.toNat)).take (max u.toNat used'.toNat - min u.toNat used'.toNat)).foldr
        (· ^^^ ·) 0 ≠ 1#8 <<< b →
      blkDec v bank (c.set (v.encBlockSize - 1) (last ^^^ (1#8 <<< b))) false
        = .error ⟨.invalidBlockChecksum, (sum'.setWidth 32 <<< 8) ||| (last ^^^ (1#8 <<< b)).setWidth 32, 0⟩ ∧
      blkDec v bank (c.set (v.encBlockSize - 1) (last ^^^ (1#8 <<< b))) true = .ok ⟨p, used', true⟩) ∧
    (v = .new → 4 ≤ b ∨ (b = 3 ∧ u ≠ 0 ∧ u ≠ 8) → v.blockCap < used'.toNat) ∧
    (blkDec v bank ((c.set (v.encBlockSize - 1) (last ^^^ (1#8 <<< b))).set (v.encBlockSize - 2)
        (c.getD (v.encBlockSize - 2) 0 ^^^ (1#8 <<< b))) false
        = .error ⟨.invalidBlockChecksum, (last.setWidth 32 <<< 8) ||| (last ^^^ (1#8 <<< b)).setWidth 32, 0⟩ ∧
      blkDec v bank ((c.set (v.encBlockSize - 1) (last ^^^ (1#8 <<< b))).set (v.encBlockSize - 2)
        (c.getD (v.encBlockSize - 2) 0 ^^^ (1#8 <<< b))) true = .ok ⟨p, u, true⟩)

/-! ### Both paths together -/

/-- R215: a frame that TX.FRAME can send, enciphered with bank E and counter c, is deciphered by RX.PROCESS to the
original frame, with a matching bank, the same variant and RX_CTR = c; every class, both variants, no fault, no
warning. -/
def Obligations.FrameRoundTrip : Prop :=
  ∀ (a b : State) (f : List Byte), TxWaiting a → sendable a.variant f = true → b.variant = a.variant →
    MatchingPair a.variant a.txk b.rxk → b.rxCtr = a.txCtr →
    ∃ a', exec (.txFrame f) a = .next a' ∧ a'.fault = false ∧
      (RxHolds b a'.txout →
        exec .rxProcess b = .next (b.delivered f a'.txCtr a'.txout.length 0))

/-- R241: two instances A and B with A.TXK pairing with B.RXK, the same variant and A.TX_CTR = B.RX_CTR: every sequence
of frames that can be sent, submitted to A, its bytes carried one by one from TXB to RXB, is delivered by B exactly, in
order, without fault or warning, and the counters stay equal. -/
def Obligations.SequenceRoundTrip : Prop :=
  ∀ (a b : State) (fs : List (List Byte)), TxWaiting a → RxWaiting b → b.outf = none → b.variant = a.variant →
    MatchingPair a.variant a.txk b.rxk → b.rxCtr = a.txCtr → (∀ f ∈ fs, sendable a.variant f = true) →
    ∃ a' b', carryFrames fs a b = some (fs.map Response.bytes, a', b') ∧ TxWaiting a' ∧ RxWaiting b' ∧
      b'.outf = none ∧ b'.warnCnt = b.warnCnt ∧ b'.rxCtr = a'.txCtr
end

