-- ==== Sys2Proof/Laws/State.lean ====
section
/-!
SUPPORT. What each named update of the state does to each field: true by rfl, so that no proof unfolds a record update.
-/

namespace Sys2Proof.Machine

/-! ### `respond` -/

@[simp] theorem respond_variant (s : State) (r : Response) : (s.respond r).variant = s.variant := rfl
@[simp] theorem respond_lenient (s : State) (r : Response) : (s.respond r).lenient = s.lenient := rfl
@[simp] theorem respond_rxEn (s : State) (r : Response) : (s.respond r).rxEn = s.rxEn := rfl
@[simp] theorem respond_txEn (s : State) (r : Response) : (s.respond r).txEn = s.txEn := rfl
@[simp] theorem respond_txk (s : State) (r : Response) : (s.respond r).txk = s.txk := rfl
@[simp] theorem respond_rxk (s : State) (r : Response) : (s.respond r).rxk = s.rxk := rfl
@[simp] theorem respond_rxCtr (s : State) (r : Response) : (s.respond r).rxCtr = s.rxCtr := rfl
@[simp] theorem respond_txCtr (s : State) (r : Response) : (s.respond r).txCtr = s.txCtr := rfl
@[simp] theorem respond_rxbuf (s : State) (r : Response) : (s.respond r).rxbuf = s.rxbuf := rfl
@[simp] theorem respond_outf (s : State) (r : Response) : (s.respond r).outf = s.outf := rfl
@[simp] theorem respond_rxPos (s : State) (r : Response) : (s.respond r).rxPos = s.rxPos := rfl
@[simp] theorem respond_rxClosed (s : State) (r : Response) : (s.respond r).rxClosed = s.rxClosed := rfl
@[simp] theorem respond_txout (s : State) (r : Response) : (s.respond r).txout = s.txout := rfl
@[simp] theorem respond_txPos (s : State) (r : Response) : (s.respond r).txPos = s.txPos := rfl
@[simp] theorem respond_txClosed (s : State) (r : Response) : (s.respond r).txClosed = s.txClosed := rfl
@[simp] theorem respond_fault (s : State) (r : Response) : (s.respond r).fault = s.fault := rfl
@[simp] theorem respond_errCode (s : State) (r : Response) : (s.respond r).errCode = s.errCode := rfl
@[simp] theorem respond_errInfo0 (s : State) (r : Response) : (s.respond r).errInfo0 = s.errInfo0 := rfl
@[simp] theorem respond_errInfo1 (s : State) (r : Response) : (s.respond r).errInfo1 = s.errInfo1 := rfl
@[simp] theorem respond_errPos (s : State) (r : Response) : (s.respond r).errPos = s.errPos := rfl
@[simp] theorem respond_warnCnt (s : State) (r : Response) : (s.respond r).warnCnt = s.warnCnt := rfl
@[simp] theorem respond_blkLen (s : State) (r : Response) : (s.respond r).blkLen = s.blkLen := rfl
@[simp] theorem respond_blkStatus (s : State) (r : Response) : (s.respond r).blkStatus = s.blkStatus := rfl
@[simp] theorem respond_pkSlot (s : State) (r : Response) : (s.respond r).pkSlot = s.pkSlot := rfl
@[simp] theorem respond_pkVal (s : State) (r : Response) : (s.respond r).pkVal = s.pkVal := rfl
@[simp] theorem respond_dpb (s : State) (r : Response) : (s.respond r).dpb = s.dpb := rfl
@[simp] theorem respond_dcb (s : State) (r : Response) : (s.respond r).dcb = s.dcb := rfl
@[simp] theorem respond_sched (s : State) (r : Response) : (s.respond r).sched = s.sched := rfl
@[simp] theorem respond_resp (s : State) (r : Response) : (s.respond r).resp = r := rfl

/-! ### `takeFault` -/

@[simp] theorem takeFault_variant (s : State) (d : Dir) (x : Raised) : (s.takeFault d x).variant = s.variant := rfl
@[simp] theorem takeFault_lenient (s : State) (d : Dir) (x : Raised) : (s.takeFault d x).lenient = s.lenient := rfl
@[simp] theorem takeFault_rxEn (s : State) (d : Dir) (x : Raised) : (s.takeFault d x).rxEn = s.rxEn := rfl
@[simp] theorem takeFault_txEn (s : State) (d : Dir) (x : Raised) : (s.takeFault d x).txEn = s.txEn := rfl
@[simp] theorem takeFault_txk (s : State) (d : Dir) (x : Raised) : (s.takeFault d x).txk = s.txk := rfl
@[simp] theorem takeFault_rxk (s : State) (d : Dir) (x : Raised) : (s.takeFault d x).rxk = s.rxk := rfl
@[simp] theorem takeFault_rxCtr (s : State) (d : Dir) (x : Raised) : (s.takeFault d x).rxCtr = s.rxCtr := rfl
@[simp] theorem takeFault_txCtr (s : State) (d : Dir) (x : Raised) : (s.takeFault d x).txCtr = s.txCtr := rfl
@[simp] theorem takeFault_rxbuf (s : State) (d : Dir) (x : Raised) : (s.takeFault d x).rxbuf = [] := rfl
@[simp] theorem takeFault_outf (s : State) (d : Dir) (x : Raised) : (s.takeFault d x).outf = none := rfl
@[simp] theorem takeFault_rxPos (s : State) (d : Dir) (x : Raised) : (s.takeFault d x).rxPos = s.rxPos := rfl
@[simp] theorem takeFault_rxClosed (s : State) (d : Dir) (x : Raised) : (s.takeFault d x).rxClosed = s.rxClosed := rfl
@[simp] theorem takeFault_txout (s : State) (d : Dir) (x : Raised) : (s.takeFault d x).txout = [] := rfl
@[simp] theorem takeFault_txPos (s : State) (d : Dir) (x : Raised) : (s.takeFault d x).txPos = s.txPos := rfl
@[simp] theorem takeFault_txClosed (s : State) (d : Dir) (x : Raised) : (s.takeFault d x).txClosed = s.txClosed := rfl
@[simp] theorem takeFault_fault (s : State) (d : Dir) (x : Raised) : (s.takeFault d x).fault = true := rfl
@[simp] theorem takeFault_errCode (s : State) (d : Dir) (x : Raised) : (s.takeFault d x).errCode = errCodeWord d x.cause := rfl
@[simp] theorem takeFault_errInfo0 (s : State) (d : Dir) (x : Raised) : (s.takeFault d x).errInfo0 = x.info0 := rfl
@[simp] theorem takeFault_errInfo1 (s : State) (d : Dir) (x : Raised) : (s.takeFault d x).errInfo1 = x.info1 := rfl
@[simp] theorem takeFault_errPos (s : State) (d : Dir) (x : Raised) : (s.takeFault d x).errPos = (match d with | .rx => s.rxPos | .tx => s.txPos) := rfl
@[simp] theorem takeFault_warnCnt (s : State) (d : Dir) (x : Raised) : (s.takeFault d x).warnCnt = s.warnCnt := rfl
@[simp] theorem takeFault_blkLen (s : State) (d : Dir) (x : Raised) : (s.takeFault d x).blkLen = s.blkLen := rfl
@[simp] theorem takeFault_blkStatus (s : State) (d : Dir) (x : Raised) : (s.takeFault d x).blkStatus = s.blkStatus := rfl
@[simp] theorem takeFault_pkSlot (s : State) (d : Dir) (x : Raised) : (s.takeFault d x).pkSlot = s.pkSlot := rfl
@[simp] theorem takeFault_pkVal (s : State) (d : Dir) (x : Raised) : (s.takeFault d x).pkVal = s.pkVal := rfl
@[simp] theorem takeFault_dpb (s : State) (d : Dir) (x : Raised) : (s.takeFault d x).dpb = s.dpb := rfl
@[simp] theorem takeFault_dcb (s : State) (d : Dir) (x : Raised) : (s.takeFault d x).dcb = s.dcb := rfl
@[simp] theorem takeFault_sched (s : State) (d : Dir) (x : Raised) : (s.takeFault d x).sched = s.sched := rfl
@[simp] theorem takeFault_resp (s : State) (d : Dir) (x : Raised) : (s.takeFault d x).resp = s.resp := rfl

/-! ### `faulted` -/

@[simp] theorem faulted_variant (s : State) (d : Dir) (x : Raised) : (s.faulted d x).variant = s.variant := rfl
@[simp] theorem faulted_lenient (s : State) (d : Dir) (x : Raised) : (s.faulted d x).lenient = s.lenient := rfl
@[simp] theorem faulted_rxEn (s : State) (d : Dir) (x : Raised) : (s.faulted d x).rxEn = s.rxEn := rfl
@[simp] theorem faulted_txEn (s : State) (d : Dir) (x : Raised) : (s.faulted d x).txEn = s.txEn := rfl
@[simp] theorem faulted_txk (s : State) (d : Dir) (x : Raised) : (s.faulted d x).txk = s.txk := rfl
@[simp] theorem faulted_rxk (s : State) (d : Dir) (x : Raised) : (s.faulted d x).rxk = s.rxk := rfl
@[simp] theorem faulted_rxCtr (s : State) (d : Dir) (x : Raised) : (s.faulted d x).rxCtr = s.rxCtr := rfl
@[simp] theorem faulted_txCtr (s : State) (d : Dir) (x : Raised) : (s.faulted d x).txCtr = s.txCtr := rfl
@[simp] theorem faulted_rxbuf (s : State) (d : Dir) (x : Raised) : (s.faulted d x).rxbuf = [] := rfl
@[simp] theorem faulted_outf (s : State) (d : Dir) (x : Raised) : (s.faulted d x).outf = none := rfl
@[simp] theorem faulted_rxPos (s : State) (d : Dir) (x : Raised) : (s.faulted d x).rxPos = s.rxPos := rfl
@[simp] theorem faulted_rxClosed (s : State) (d : Dir) (x : Raised) : (s.faulted d x).rxClosed = s.rxClosed := rfl
@[simp] theorem faulted_txout (s : State) (d : Dir) (x : Raised) : (s.faulted d x).txout = [] := rfl
@[simp] theorem faulted_txPos (s : State) (d : Dir) (x : Raised) : (s.faulted d x).txPos = s.txPos := rfl
@[simp] theorem faulted_txClosed (s : State) (d : Dir) (x : Raised) : (s.faulted d x).txClosed = s.txClosed := rfl
@[simp] theorem faulted_fault (s : State) (d : Dir) (x : Raised) : (s.faulted d x).fault = true := rfl
@[simp] theorem faulted_errCode (s : State) (d : Dir) (x : Raised) : (s.faulted d x).errCode = errCodeWord d x.cause := rfl
@[simp] theorem faulted_errInfo0 (s : State) (d : Dir) (x : Raised) : (s.faulted d x).errInfo0 = x.info0 := rfl
@[simp] theorem faulted_errInfo1 (s : State) (d : Dir) (x : Raised) : (s.faulted d x).errInfo1 = x.info1 := rfl
@[simp] theorem faulted_errPos (s : State) (d : Dir) (x : Raised) : (s.faulted d x).errPos = (match d with | .rx => s.rxPos | .tx => s.txPos) := rfl
@[simp] theorem faulted_warnCnt (s : State) (d : Dir) (x : Raised) : (s.faulted d x).warnCnt = s.warnCnt := rfl
@[simp] theorem faulted_blkLen (s : State) (d : Dir) (x : Raised) : (s.faulted d x).blkLen = s.blkLen := rfl
@[simp] theorem faulted_blkStatus (s : State) (d : Dir) (x : Raised) : (s.faulted d x).blkStatus = s.blkStatus := rfl
@[simp] theorem faulted_pkSlot (s : State) (d : Dir) (x : Raised) : (s.faulted d x).pkSlot = s.pkSlot := rfl
@[simp] theorem faulted_pkVal (s : State) (d : Dir) (x : Raised) : (s.faulted d x).pkVal = s.pkVal := rfl
@[simp] theorem faulted_dpb (s : State) (d : Dir) (x : Raised) : (s.faulted d x).dpb = s.dpb := rfl
@[simp] theorem faulted_dcb (s : State) (d : Dir) (x : Raised) : (s.faulted d x).dcb = s.dcb := rfl
@[simp] theorem faulted_sched (s : State) (d : Dir) (x : Raised) : (s.faulted d x).sched = s.sched := rfl
@[simp] theorem faulted_resp (s : State) (d : Dir) (x : Raised) : (s.faulted d x).resp = .faulted := rfl

/-! ### `connReset` -/

@[simp] theorem connReset_variant (s : State) : (s.connReset).variant = s.variant := rfl
@[simp] theorem connReset_lenient (s : State) : (s.connReset).lenient = s.lenient := rfl
@[simp] theorem connReset_rxEn (s : State) : (s.connReset).rxEn = false := rfl
@[simp] theorem connReset_txEn (s : State) : (s.connReset).txEn = false := rfl
@[simp] theorem connReset_txk (s : State) : (s.connReset).txk = s.txk := rfl
@[simp] theorem connReset_rxk (s : State) : (s.connReset).rxk = s.rxk := rfl
@[simp] theorem connReset_rxCtr (s : State) : (s.connReset).rxCtr = 0 := rfl
@[simp] theorem connReset_txCtr (s : State) : (s.connReset).txCtr = 0 := rfl
@[simp] theorem connReset_rxbuf (s : State) : (s.connReset).rxbuf = [] := rfl
@[simp] theorem connReset_outf (s : State) : (s.connReset).outf = none := rfl
@[simp] theorem connReset_rxPos (s : State) : (s.connReset).rxPos = 0 := rfl
@[simp] theorem connReset_rxClosed (s : State) : (s.connReset).rxClosed = false := rfl
@[simp] theorem connReset_txout (s : State) : (s.connReset).txout = [] := rfl
@[simp] theorem connReset_txPos (s : State) : (s.connReset).txPos = 0 := rfl
@[simp] theorem connReset_txClosed (s : State) : (s.connReset).txClosed = false := rfl
@[simp] theorem connReset_fault (s : State) : (s.connReset).fault = false := rfl
@[simp] theorem connReset_errCode (s : State) : (s.connReset).errCode = 0 := rfl
@[simp] theorem connReset_errInfo0 (s : State) : (s.connReset).errInfo0 = 0 := rfl
@[simp] theorem connReset_errInfo1 (s : State) : (s.connReset).errInfo1 = 0 := rfl
@[simp] theorem connReset_errPos (s : State) : (s.connReset).errPos = 0 := rfl
@[simp] theorem connReset_warnCnt (s : State) : (s.connReset).warnCnt = 0 := rfl
@[simp] theorem connReset_blkLen (s : State) : (s.connReset).blkLen = s.blkLen := rfl
@[simp] theorem connReset_blkStatus (s : State) : (s.connReset).blkStatus = s.blkStatus := rfl
@[simp] theorem connReset_pkSlot (s : State) : (s.connReset).pkSlot = s.pkSlot := rfl
@[simp] theorem connReset_pkVal (s : State) : (s.connReset).pkVal = s.pkVal := rfl
@[simp] theorem connReset_dpb (s : State) : (s.connReset).dpb = s.dpb := rfl
@[simp] theorem connReset_dcb (s : State) : (s.connReset).dcb = s.dcb := rfl
@[simp] theorem connReset_sched (s : State) : (s.connReset).sched = s.sched := rfl
@[simp] theorem connReset_resp (s : State) : (s.connReset).resp = s.resp := rfl

/-! ### `hardReset` -/

@[simp] theorem hardReset_variant (s : State) : (s.hardReset).variant = .new := rfl
@[simp] theorem hardReset_lenient (s : State) : (s.hardReset).lenient = false := rfl
@[simp] theorem hardReset_rxEn (s : State) : (s.hardReset).rxEn = false := rfl
@[simp] theorem hardReset_txEn (s : State) : (s.hardReset).txEn = false := rfl
@[simp] theorem hardReset_txk (s : State) : (s.hardReset).txk = KeyBank.zero := rfl
@[simp] theorem hardReset_rxk (s : State) : (s.hardReset).rxk = KeyBank.zero := rfl
@[simp] theorem hardReset_rxCtr (s : State) : (s.hardReset).rxCtr = 0 := rfl
@[simp] theorem hardReset_txCtr (s : State) : (s.hardReset).txCtr = 0 := rfl
@[simp] theorem hardReset_rxbuf (s : State) : (s.hardReset).rxbuf = [] := rfl
@[simp] theorem hardReset_outf (s : State) : (s.hardReset).outf = none := rfl
@[simp] theorem hardReset_rxPos (s : State) : (s.hardReset).rxPos = 0 := rfl
@[simp] theorem hardReset_rxClosed (s : State) : (s.hardReset).rxClosed = false := rfl
@[simp] theorem hardReset_txout (s : State) : (s.hardReset).txout = [] := rfl
@[simp] theorem hardReset_txPos (s : State) : (s.hardReset).txPos = 0 := rfl
@[simp] theorem hardReset_txClosed (s : State) : (s.hardReset).txClosed = false := rfl
@[simp] theorem hardReset_fault (s : State) : (s.hardReset).fault = false := rfl
@[simp] theorem hardReset_errCode (s : State) : (s.hardReset).errCode = 0 := rfl
@[simp] theorem hardReset_errInfo0 (s : State) : (s.hardReset).errInfo0 = 0 := rfl
@[simp] theorem hardReset_errInfo1 (s : State) : (s.hardReset).errInfo1 = 0 := rfl
@[simp] theorem hardReset_errPos (s : State) : (s.hardReset).errPos = 0 := rfl
@[simp] theorem hardReset_warnCnt (s : State) : (s.hardReset).warnCnt = 0 := rfl
@[simp] theorem hardReset_blkLen (s : State) : (s.hardReset).blkLen = 0 := rfl
@[simp] theorem hardReset_blkStatus (s : State) : (s.hardReset).blkStatus = 0 := rfl
@[simp] theorem hardReset_pkSlot (s : State) : (s.hardReset).pkSlot = 0 := rfl
@[simp] theorem hardReset_pkVal (s : State) : (s.hardReset).pkVal = 0 := rfl
@[simp] theorem hardReset_dpb (s : State) : (s.hardReset).dpb = Vector.replicate 32 0 := rfl
@[simp] theorem hardReset_dcb (s : State) : (s.hardReset).dcb = Vector.replicate 38 0 := rfl
@[simp] theorem hardReset_sched (s : State) : (s.hardReset).sched = s.sched := rfl
@[simp] theorem hardReset_resp (s : State) : (s.hardReset).resp = .idle := rfl

/-! ### `takeOffer` -/

@[simp] theorem takeOffer_variant (s : State) (os : List Offer) : (s.takeOffer os).variant = s.variant := rfl
@[simp] theorem takeOffer_lenient (s : State) (os : List Offer) : (s.takeOffer os).lenient = s.lenient := rfl
@[simp] theorem takeOffer_rxEn (s : State) (os : List Offer) : (s.takeOffer os).rxEn = s.rxEn := rfl
@[simp] theorem takeOffer_txEn (s : State) (os : List Offer) : (s.takeOffer os).txEn = s.txEn := rfl
@[simp] theorem takeOffer_txk (s : State) (os : List Offer) : (s.takeOffer os).txk = s.txk := rfl
@[simp] theorem takeOffer_rxk (s : State) (os : List Offer) : (s.takeOffer os).rxk = s.rxk := rfl
@[simp] theorem takeOffer_rxCtr (s : State) (os : List Offer) : (s.takeOffer os).rxCtr = s.rxCtr := rfl
@[simp] theorem takeOffer_txCtr (s : State) (os : List Offer) : (s.takeOffer os).txCtr = s.txCtr := rfl
@[simp] theorem takeOffer_rxbuf (s : State) (os : List Offer) : (s.takeOffer os).rxbuf = s.rxbuf := rfl
@[simp] theorem takeOffer_outf (s : State) (os : List Offer) : (s.takeOffer os).outf = s.outf := rfl
@[simp] theorem takeOffer_rxPos (s : State) (os : List Offer) : (s.takeOffer os).rxPos = s.rxPos := rfl
@[simp] theorem takeOffer_rxClosed (s : State) (os : List Offer) : (s.takeOffer os).rxClosed = s.rxClosed := rfl
@[simp] theorem takeOffer_txout (s : State) (os : List Offer) : (s.takeOffer os).txout = s.txout := rfl
@[simp] theorem takeOffer_txPos (s : State) (os : List Offer) : (s.takeOffer os).txPos = s.txPos := rfl
@[simp] theorem takeOffer_txClosed (s : State) (os : List Offer) : (s.takeOffer os).txClosed = s.txClosed := rfl
@[simp] theorem takeOffer_fault (s : State) (os : List Offer) : (s.takeOffer os).fault = s.fault := rfl
@[simp] theorem takeOffer_errCode (s : State) (os : List Offer) : (s.takeOffer os).errCode = s.errCode := rfl
@[simp] theorem takeOffer_errInfo0 (s : State) (os : List Offer) : (s.takeOffer os).errInfo0 = s.errInfo0 := rfl
@[simp] theorem takeOffer_errInfo1 (s : State) (os : List Offer) : (s.takeOffer os).errInfo1 = s.errInfo1 := rfl
@[simp] theorem takeOffer_errPos (s : State) (os : List Offer) : (s.takeOffer os).errPos = s.errPos := rfl
@[simp] theorem takeOffer_warnCnt (s : State) (os : List Offer) : (s.takeOffer os).warnCnt = s.warnCnt := rfl
@[simp] theorem takeOffer_blkLen (s : State) (os : List Offer) : (s.takeOffer os).blkLen = s.blkLen := rfl
@[simp] theorem takeOffer_blkStatus (s : State) (os : List Offer) : (s.takeOffer os).blkStatus = s.blkStatus := rfl
@[simp] theorem takeOffer_pkSlot (s : State) (os : List Offer) : (s.takeOffer os).pkSlot = s.pkSlot := rfl
@[simp] theorem takeOffer_pkVal (s : State) (os : List Offer) : (s.takeOffer os).pkVal = s.pkVal := rfl
@[simp] theorem takeOffer_dpb (s : State) (os : List Offer) : (s.takeOffer os).dpb = s.dpb := rfl
@[simp] theorem takeOffer_dcb (s : State) (os : List Offer) : (s.takeOffer os).dcb = s.dcb := rfl
@[simp] theorem takeOffer_sched (s : State) (os : List Offer) : (s.takeOffer os).sched = os := rfl
@[simp] theorem takeOffer_resp (s : State) (os : List Offer) : (s.takeOffer os).resp = s.resp := rfl

/-! ### `writeCtrl` -/

@[simp] theorem writeCtrl_variant (s : State) (v : Word) : (writeCtrl s v).variant = (if !s.rxEn && !s.txEn then Variant.ofBool (v.getLsbD 0) else s.variant) := rfl
@[simp] theorem writeCtrl_lenient (s : State) (v : Word) : (writeCtrl s v).lenient = (if !s.rxEn && !s.txEn then v.getLsbD 1 else s.lenient) := rfl
@[simp] theorem writeCtrl_rxEn (s : State) (v : Word) : (writeCtrl s v).rxEn = (s.rxEn || v.getLsbD 2) := rfl
@[simp] theorem writeCtrl_txEn (s : State) (v : Word) : (writeCtrl s v).txEn = (s.txEn || v.getLsbD 3) := rfl
@[simp] theorem writeCtrl_txk (s : State) (v : Word) : (writeCtrl s v).txk = s.txk := rfl
@[simp] theorem writeCtrl_rxk (s : State) (v : Word) : (writeCtrl s v).rxk = s.rxk := rfl
@[simp] theorem writeCtrl_rxCtr (s : State) (v : Word) : (writeCtrl s v).rxCtr = s.rxCtr := rfl
@[simp] theorem writeCtrl_txCtr (s : State) (v : Word) : (writeCtrl s v).txCtr = s.txCtr := rfl
@[simp] theorem writeCtrl_rxbuf (s : State) (v : Word) : (writeCtrl s v).rxbuf = s.rxbuf := rfl
@[simp] theorem writeCtrl_outf (s : State) (v : Word) : (writeCtrl s v).outf = s.outf := rfl
@[simp] theorem writeCtrl_rxPos (s : State) (v : Word) : (writeCtrl s v).rxPos = s.rxPos := rfl
@[simp] theorem writeCtrl_rxClosed (s : State) (v : Word) : (writeCtrl s v).rxClosed = s.rxClosed := rfl
@[simp] theorem writeCtrl_txout (s : State) (v : Word) : (writeCtrl s v).txout = s.txout := rfl
@[simp] theorem writeCtrl_txPos (s : State) (v : Word) : (writeCtrl s v).txPos = s.txPos := rfl
@[simp] theorem writeCtrl_txClosed (s : State) (v : Word) : (writeCtrl s v).txClosed = s.txClosed := rfl
@[simp] theorem writeCtrl_fault (s : State) (v : Word) : (writeCtrl s v).fault = s.fault := rfl
@[simp] theorem writeCtrl_errCode (s : State) (v : Word) : (writeCtrl s v).errCode = s.errCode := rfl
@[simp] theorem writeCtrl_errInfo0 (s : State) (v : Word) : (writeCtrl s v).errInfo0 = s.errInfo0 := rfl
@[simp] theorem writeCtrl_errInfo1 (s : State) (v : Word) : (writeCtrl s v).errInfo1 = s.errInfo1 := rfl
@[simp] theorem writeCtrl_errPos (s : State) (v : Word) : (writeCtrl s v).errPos = s.errPos := rfl
@[simp] theorem writeCtrl_warnCnt (s : State) (v : Word) : (writeCtrl s v).warnCnt = s.warnCnt := rfl
@[simp] theorem writeCtrl_blkLen (s : State) (v : Word) : (writeCtrl s v).blkLen = s.blkLen := rfl
@[simp] theorem writeCtrl_blkStatus (s : State) (v : Word) : (writeCtrl s v).blkStatus = s.blkStatus := rfl
@[simp] theorem writeCtrl_pkSlot (s : State) (v : Word) : (writeCtrl s v).pkSlot = s.pkSlot := rfl
@[simp] theorem writeCtrl_pkVal (s : State) (v : Word) : (writeCtrl s v).pkVal = s.pkVal := rfl
@[simp] theorem writeCtrl_dpb (s : State) (v : Word) : (writeCtrl s v).dpb = s.dpb := rfl
@[simp] theorem writeCtrl_dcb (s : State) (v : Word) : (writeCtrl s v).dcb = s.dcb := rfl
@[simp] theorem writeCtrl_sched (s : State) (v : Word) : (writeCtrl s v).sched = s.sched := rfl
@[simp] theorem writeCtrl_resp (s : State) (v : Word) : (writeCtrl s v).resp = s.resp := rfl

/-! ### `haltedWith` -/

@[simp] theorem haltedWith_variant (s : State) (c d i0 i1 : Word) (p : Dword) : (s.haltedWith c d i0 i1 p).variant = s.variant := rfl
@[simp] theorem haltedWith_lenient (s : State) (c d i0 i1 : Word) (p : Dword) : (s.haltedWith c d i0 i1 p).lenient = s.lenient := rfl
@[simp] theorem haltedWith_rxEn (s : State) (c d i0 i1 : Word) (p : Dword) : (s.haltedWith c d i0 i1 p).rxEn = s.rxEn := rfl
@[simp] theorem haltedWith_txEn (s : State) (c d i0 i1 : Word) (p : Dword) : (s.haltedWith c d i0 i1 p).txEn = s.txEn := rfl
@[simp] theorem haltedWith_txk (s : State) (c d i0 i1 : Word) (p : Dword) : (s.haltedWith c d i0 i1 p).txk = s.txk := rfl
@[simp] theorem haltedWith_rxk (s : State) (c d i0 i1 : Word) (p : Dword) : (s.haltedWith c d i0 i1 p).rxk = s.rxk := rfl
@[simp] theorem haltedWith_rxCtr (s : State) (c d i0 i1 : Word) (p : Dword) : (s.haltedWith c d i0 i1 p).rxCtr = s.rxCtr := rfl
@[simp] theorem haltedWith_txCtr (s : State) (c d i0 i1 : Word) (p : Dword) : (s.haltedWith c d i0 i1 p).txCtr = s.txCtr := rfl
@[simp] theorem haltedWith_rxbuf (s : State) (c d i0 i1 : Word) (p : Dword) : (s.haltedWith c d i0 i1 p).rxbuf = [] := rfl
@[simp] theorem haltedWith_outf (s : State) (c d i0 i1 : Word) (p : Dword) : (s.haltedWith c d i0 i1 p).outf = none := rfl
@[simp] theorem haltedWith_rxPos (s : State) (c d i0 i1 : Word) (p : Dword) : (s.haltedWith c d i0 i1 p).rxPos = s.rxPos := rfl
@[simp] theorem haltedWith_rxClosed (s : State) (c d i0 i1 : Word) (p : Dword) : (s.haltedWith c d i0 i1 p).rxClosed = s.rxClosed := rfl
@[simp] theorem haltedWith_txout (s : State) (c d i0 i1 : Word) (p : Dword) : (s.haltedWith c d i0 i1 p).txout = [] := rfl
@[simp] theorem haltedWith_txPos (s : State) (c d i0 i1 : Word) (p : Dword) : (s.haltedWith c d i0 i1 p).txPos = s.txPos := rfl
@[simp] theorem haltedWith_txClosed (s : State) (c d i0 i1 : Word) (p : Dword) : (s.haltedWith c d i0 i1 p).txClosed = s.txClosed := rfl
@[simp] theorem haltedWith_fault (s : State) (c d i0 i1 : Word) (p : Dword) : (s.haltedWith c d i0 i1 p).fault = true := rfl
@[simp] theorem haltedWith_errCode (s : State) (c d i0 i1 : Word) (p : Dword) : (s.haltedWith c d i0 i1 p).errCode = (c ||| (d <<< 8)) := rfl
@[simp] theorem haltedWith_errInfo0 (s : State) (c d i0 i1 : Word) (p : Dword) : (s.haltedWith c d i0 i1 p).errInfo0 = i0 := rfl
@[simp] theorem haltedWith_errInfo1 (s : State) (c d i0 i1 : Word) (p : Dword) : (s.haltedWith c d i0 i1 p).errInfo1 = i1 := rfl
@[simp] theorem haltedWith_errPos (s : State) (c d i0 i1 : Word) (p : Dword) : (s.haltedWith c d i0 i1 p).errPos = p := rfl
@[simp] theorem haltedWith_warnCnt (s : State) (c d i0 i1 : Word) (p : Dword) : (s.haltedWith c d i0 i1 p).warnCnt = s.warnCnt := rfl
@[simp] theorem haltedWith_blkLen (s : State) (c d i0 i1 : Word) (p : Dword) : (s.haltedWith c d i0 i1 p).blkLen = s.blkLen := rfl
@[simp] theorem haltedWith_blkStatus (s : State) (c d i0 i1 : Word) (p : Dword) : (s.haltedWith c d i0 i1 p).blkStatus = s.blkStatus := rfl
@[simp] theorem haltedWith_pkSlot (s : State) (c d i0 i1 : Word) (p : Dword) : (s.haltedWith c d i0 i1 p).pkSlot = s.pkSlot := rfl
@[simp] theorem haltedWith_pkVal (s : State) (c d i0 i1 : Word) (p : Dword) : (s.haltedWith c d i0 i1 p).pkVal = s.pkVal := rfl
@[simp] theorem haltedWith_dpb (s : State) (c d i0 i1 : Word) (p : Dword) : (s.haltedWith c d i0 i1 p).dpb = s.dpb := rfl
@[simp] theorem haltedWith_dcb (s : State) (c d i0 i1 : Word) (p : Dword) : (s.haltedWith c d i0 i1 p).dcb = s.dcb := rfl
@[simp] theorem haltedWith_sched (s : State) (c d i0 i1 : Word) (p : Dword) : (s.haltedWith c d i0 i1 p).sched = s.sched := rfl
@[simp] theorem haltedWith_resp (s : State) (c d i0 i1 : Word) (p : Dword) : (s.haltedWith c d i0 i1 p).resp = .faulted := rfl

/-! ### The views read only what they name -/

@[simp] theorem respond_rxState (s : State) (r : Response) : (s.respond r).rxState = s.rxState := rfl
@[simp] theorem respond_rxbReady (s : State) (r : Response) : (s.respond r).rxbReady = s.rxbReady := rfl
@[simp] theorem respond_rxProcessReady (s : State) (r : Response) : (s.respond r).rxProcessReady = s.rxProcessReady := rfl
@[simp] theorem respond_txfReady (s : State) (r : Response) : (s.respond r).txfReady = s.txfReady := rfl
@[simp] theorem respond_respond (s : State) (q r : Response) : (s.respond q).respond r = s.respond r := rfl
@[simp] theorem takeOffer_rxbReady (s : State) (os : List Offer) : (s.takeOffer os).rxbReady = s.rxbReady := rfl
@[simp] theorem takeOffer_rxProcessReady (s : State) (os : List Offer) :
    (s.takeOffer os).rxProcessReady = s.rxProcessReady := rfl

/-- A halted machine accepts no byte. -/
theorem rxbReady_of_fault {s : State} (h : s.fault = true) : s.rxbReady = false := by
  simp [State.rxbReady, h]

/-- A halted machine processes no frame. -/
theorem rxProcessReady_of_fault {s : State} (h : s.fault = true) : s.rxProcessReady = false := by
  simp [State.rxProcessReady, h]

/-- What RXB being ready means. -/
theorem rxbReady_iff {s : State} :
    s.rxbReady = true ↔ s.rxEn = true ∧ s.fault = false ∧ s.rxClosed = false ∧ s.rxState ≠ .emit := by
  simp [State.rxbReady, and_assoc]

/-- What RX.PROCESS being enabled means. -/
theorem rxProcessReady_iff {s : State} :
    s.rxProcessReady = true ↔ s.rxEn = true ∧ s.fault = false ∧ s.rxState = .emit ∧ s.outf = none := by
  simp [State.rxProcessReady, and_assoc]

/-- What TXF being ready means. -/
theorem txfReady_iff {s : State} :
    s.txfReady = true ↔ s.txEn = true ∧ s.fault = false ∧ s.txClosed = false ∧ s.txout = [] := by
  simp [State.txfReady, and_assoc]

/-- The two open conditions. -/
theorem rxOpen_iff {s : State} : s.rxOpen = true ↔ s.rxEn = true ∧ s.fault = false ∧ s.rxClosed = false := by
  simp [State.rxOpen, and_assoc]

theorem txOpen_iff {s : State} : s.txOpen = true ↔ s.txEn = true ∧ s.fault = false ∧ s.txClosed = false := by
  simp [State.txOpen, and_assoc]

/-- When a diagnostic command is accepted. -/
theorem diagReady_iff {s : State} : s.diagReady = true ↔ s.fault = false ∧ s.rxEn = false ∧ s.txEn = false := by
  simp [State.diagReady, and_assoc]

/-- ERR_CODE of each direction, written as code and shifted DIR. -/
theorem errCodeWord_rx (c : Cause) : errCodeWord .rx c = c.code.setWidth 32 ||| (0#32 <<< 8) := by
  cases c <;> decide

theorem errCodeWord_tx (c : Cause) : errCodeWord .tx c = c.code.setWidth 32 ||| (1#32 <<< 8) := by
  cases c <;> decide

/-- Fault entry on the RX path, written out. -/
theorem faulted_rx_eq (s : State) (x : Raised) :
    s.faulted .rx x = s.haltedWith (x.cause.code.setWidth 32) 0 x.info0 x.info1 s.rxPos := by
  simp only [State.faulted, State.takeFault, State.respond, State.haltedWith, errCodeWord_rx]
  rfl

/-- Fault entry on the TX path, written out. -/
theorem faulted_tx_eq (s : State) (x : Raised) :
    s.faulted .tx x = s.haltedWith (x.cause.code.setWidth 32) 1 x.info0 x.info1 s.txPos := by
  simp only [State.faulted, State.takeFault, State.respond, State.haltedWith, errCodeWord_tx]
  rfl

end Sys2Proof.Machine
end

