-- ==== Sys2Proof/Laws/Ops.lean ====
section
/-!
SUPPORT. For each shared operation, one lemma that says once everything it can do; proofs cite these and do not unfold
the operations again.
-/

namespace Sys2Proof.Machine

/-! ### The framer -/

/-- Everything the checks of RX.BYTE can answer (R181, R185, R186). -/
theorem acceptByte_cases (cap : Nat) (buf : List Byte) (b : Byte) :
    (acceptByte cap buf b = .ok (buf ++ [b]) ∧ (buf = [] → isRecognized b = true)) ∨
    (buf = [] ∧ isRecognized b = false ∧ acceptByte cap buf b = .error ⟨.invalidPacketHeader, b.setWidth 32, 0⟩) ∨
    (totalLen (buf ++ [b]) < hdrLen ((buf ++ [b]).getD 0 0) ∧
      acceptByte cap buf b = .error ⟨.contentLength, BitVec.ofNat 32 (totalLen (buf ++ [b])), 3⟩) ∨
    (cap < totalLen (buf ++ [b]) ∧
      acceptByte cap buf b = .error ⟨.contentLength, BitVec.ofNat 32 (totalLen (buf ++ [b])), 2⟩) := by
  by_cases hb : buf.isEmpty = true ∧ isRecognized b = false
  · right; left
    have h0 : buf = [] := List.isEmpty_iff.mp hb.1
    exact ⟨h0, hb.2, by simp [acceptByte, hb.2, h0]⟩
  · have hg : (buf.isEmpty && !isRecognized b) = false := by
      cases hbuf : buf.isEmpty <;> cases hr : isRecognized b <;> simp_all
    have hrec : buf = [] → isRecognized b = true := by
      intro h0; cases hr : isRecognized b
      · exact absurd ⟨by simp [h0], hr⟩ hb
      · rfl
    simp only [acceptByte, hg, Bool.false_eq_true, if_false]
    by_cases h1 : (buf ++ [b]).length = hdrLen ((buf ++ [b]).getD 0 0)
    · by_cases h2 : totalLen (buf ++ [b]) < hdrLen ((buf ++ [b]).getD 0 0)
      · right; right; left; exact ⟨h2, by rw [if_pos h1, if_pos h2]⟩
      · by_cases h3 : cap < totalLen (buf ++ [b])
        · right; right; right; exact ⟨h3, by rw [if_pos h1, if_neg h2, if_pos h3]⟩
        · left; exact ⟨by rw [if_pos h1, if_neg h2, if_neg h3], hrec⟩
    · left; exact ⟨by rw [if_neg h1], hrec⟩

/-- Everything an enabled RX.BYTE can do (R181). -/
theorem rxAccept_cases (b : Byte) (s : State) :
    (acceptByte Config.rxbufCap s.rxbuf b = .ok (s.rxbuf ++ [b]) ∧
      rxAccept b s = { s with rxbuf := s.rxbuf ++ [b], resp := .done }) ∨
    (∃ x, acceptByte Config.rxbufCap s.rxbuf b = .error x ∧ rxAccept b s = s.faulted .rx x) := by
  rcases acceptByte_cases Config.rxbufCap s.rxbuf b with h | h | h | h
  · left; exact ⟨h.1, by simp [rxAccept, h.1]⟩
  · right; exact ⟨_, h.2.2, by simp [rxAccept, h.2.2]⟩
  · right; exact ⟨_, h.2, by simp [rxAccept, h.2]⟩
  · right; exact ⟨_, h.2, by simp [rxAccept, h.2]⟩

/-- RX.BYTE as an instruction. -/
theorem execRxByte_cases {b : Byte} {s t : State} (h : execRxByte b s = .next t) :
    (s.rxbReady = true ∧ t = rxAccept b s) ∨ (s.rxbReady = false ∧ t = s.respond .notReady) := by
  unfold execRxByte notReady at h
  split at h <;> cases h <;> simp_all

/-- `rx.bytes` goes on after a byte that is appended. -/
theorem rxFeed_cons_ok {b : Byte} {bs : List Byte} {s : State} (hr : s.rxbReady = true)
    (h : rxAccept b s = { s with rxbuf := s.rxbuf ++ [b], resp := .done }) (hf : s.fault = false) :
    rxFeed (b :: bs) s = rxFeed bs { s with rxbuf := s.rxbuf ++ [b], resp := .done } := by
  rw [rxFeed, if_pos hr, h]
  exact if_neg (by simp [hf])

/-- Bytes arriving together change RXBUF and the answer only, or end in fault entry from the state before them (R121,
R330). -/
theorem rxFeed_cases (bs : List Byte) (s : State) :
    (∃ buf r, rxFeed bs s = { s with rxbuf := buf, resp := r }) ∨
    (∃ x, s.rxEn = true ∧ s.fault = false ∧ rxFeed bs s = s.faulted .rx x) := by
  induction bs generalizing s with
  | nil => exact .inl ⟨s.rxbuf, .done, rfl⟩
  | cons b bs ih =>
    by_cases hr : s.rxbReady = true
    · obtain ⟨hen, hf, -, -⟩ := rxbReady_iff.mp hr
      rcases rxAccept_cases b s with ⟨-, h⟩ | ⟨x, -, h⟩
      · rcases ih { s with rxbuf := s.rxbuf ++ [b], resp := .done } with ⟨buf, r, h'⟩ | ⟨x, -, -, h'⟩
        · exact .inl ⟨buf, r, by rw [rxFeed_cons_ok hr h hf, h']⟩
        · exact .inr ⟨x, hen, hf, by rw [rxFeed_cons_ok hr h hf, h']; rfl⟩
      · exact .inr ⟨x, hen, hf, by rw [rxFeed, if_pos hr, h]; exact if_pos rfl⟩
    · exact .inl ⟨s.rxbuf, .stalled (b :: bs), by simp [rxFeed, hr, State.respond]⟩

/-! ### The decryptor -/

/-- Everything RX.PROCESS can do (R231). -/
theorem rxProcess_cases (s : State) :
    (s.rxProcessReady = false ∧ rxProcess s = s.respond .notReady) ∨
    (s.rxProcessReady = true ∧ ∃ g ctr warns,
      decryptFrame s.variant s.rxk s.rxCtr s.lenient s.rxbuf = .ok (g, ctr, warns) ∧
      rxProcess s = { s with
        outf := some g
        rxbuf := []
        rxCtr := ctr
        rxPos := s.rxPos + BitVec.ofNat 64 s.rxbuf.length
        warnCnt := addWarnings s.warnCnt warns
        resp := .processed warns }) ∨
    (s.rxProcessReady = true ∧ ∃ x,
      decryptFrame s.variant s.rxk s.rxCtr s.lenient s.rxbuf = .error x ∧ rxProcess s = s.faulted .rx x) := by
  unfold rxProcess
  cases hr : s.rxProcessReady
  · exact .inl ⟨rfl, rfl⟩
  · cases hd : decryptFrame s.variant s.rxk s.rxCtr s.lenient s.rxbuf with
    | error x => exact .inr (.inr ⟨rfl, x, rfl, rfl⟩)
    | ok r =>
      obtain ⟨g, ctr, warns⟩ := r
      exact .inr (.inl ⟨rfl, g, ctr, warns, rfl, rfl⟩)

/-- A wire frame is its bytes, and then RX.PROCESS where all were accepted (R121). -/
theorem rxFrame_cases (bs : List Byte) (s : State) :
    ((rxFeed bs s).resp = .done ∧ rxFrame bs s = rxProcess (rxFeed bs s)) ∨
    ((rxFeed bs s).resp ≠ .done ∧ rxFrame bs s = rxFeed bs s) := by
  by_cases h : (rxFeed bs s).resp = .done <;> simp [rxFrame, h]

/-- RX.DELIVER (R238). -/
theorem execRxDeliver_cases {s t : State} (h : execRxDeliver s = .next t) :
    (∃ g, s.fault = false ∧ s.outf = some g ∧ t = { s with outf := none, resp := .bytes g }) ∨
    (s.rxfValid = false ∧ t = s.respond .notReady) := by
  unfold execRxDeliver notReady at h
  split at h
  · cases h; simp_all [State.rxfValid]
  · split at h <;> cases h <;> simp_all [State.rxfValid]

/-! ### The encryptor -/

/-- TX.FRAME (R212). -/
theorem execTxFrame_cases {f : List Byte} {s t : State} (h : execTxFrame f s = .next t) :
    (s.txfReady = false ∧ t = s.respond .notReady) ∨
    (s.txfReady = true ∧ ∃ out ctr, encryptFrame s.variant s.txk s.txCtr f = .ok (out, ctr) ∧
      t = { s with txout := out, txCtr := ctr, resp := .done }) ∨
    (s.txfReady = true ∧ ∃ x, encryptFrame s.variant s.txk s.txCtr f = .error x ∧ t = s.faulted .tx x) := by
  unfold execTxFrame notReady at h
  split at h
  · rename_i hr
    split at h
    · rename_i out ctr he
      cases h; exact .inr (.inl ⟨hr, out, ctr, he, rfl⟩)
    · rename_i x he
      cases h; exact .inr (.inr ⟨hr, x, he, rfl⟩)
  · rename_i hr
    cases h; exact .inl ⟨by simpa using hr, rfl⟩

/-- TX.BYTE (R216). -/
theorem execTxByte_cases {s t : State} (h : execTxByte s = .next t) :
    (∃ b rest, s.fault = false ∧ s.txout = b :: rest ∧
      t = { s with txout := rest, txPos := s.txPos + 1, resp := .byte b }) ∨
    (s.txbValid = false ∧ t = s.respond .notReady) := by
  unfold execTxByte notReady at h
  split at h
  · cases h; simp_all [State.txbValid]
  · split at h <;> cases h <;> simp_all [State.txbValid]

/-! ### Commands and register writes -/

/-- Everything a command can do to the state: nothing; CMD.CONN_RESET; a counter to 0; or, for the diagnostic
commands, the diagnostic registers and windows only (R264 to R271). -/
theorem command_cases (code : Byte) (s : State) :
    command code s = s ∨ (code = 0x01 ∧ command code s = s.connReset) ∨
    (code = 0x02 ∧ s.fault = false ∧ command code s = { s with rxCtr := 0 }) ∨
    (code = 0x03 ∧ s.fault = false ∧ command code s = { s with txCtr := 0 }) ∨
    (s.diagReady = true ∧ ∃ len st val dp dc,
      command code s = { s with blkLen := len, blkStatus := st, pkVal := val, dpb := dp, dcb := dc }) := by
  have diag : ∀ f : State → State,
      (∀ u : State, ∃ len st val dp dc,
        f u = { u with blkLen := len, blkStatus := st, pkVal := val, dpb := dp, dcb := dc }) →
      whenDiag f s = s ∨ (s.diagReady = true ∧ ∃ len st val dp dc,
        whenDiag f s = { s with blkLen := len, blkStatus := st, pkVal := val, dpb := dp, dcb := dc }) := by
    intro f hf
    cases hd : s.diagReady
    · exact .inl (by simp [whenDiag, hd])
    · exact .inr ⟨rfl, by simpa [whenDiag, hd] using hf s⟩
  have lift : ∀ u : State,
      (u = s ∨ (s.diagReady = true ∧ ∃ len st val dp dc,
        u = { s with blkLen := len, blkStatus := st, pkVal := val, dpb := dp, dcb := dc })) →
      (u = s ∨ (code = 0x01 ∧ u = s.connReset) ∨ (code = 0x02 ∧ s.fault = false ∧ u = { s with rxCtr := 0 }) ∨
        (code = 0x03 ∧ s.fault = false ∧ u = { s with txCtr := 0 }) ∨
        (s.diagReady = true ∧ ∃ len st val dp dc,
          u = { s with blkLen := len, blkStatus := st, pkVal := val, dpb := dp, dcb := dc })) := by
    rintro u (h | h)
    · exact .inl h
    · exact .inr (.inr (.inr (.inr h)))
  unfold command
  split
  · exact .inl rfl
  split
  · exact .inr (.inl ⟨by assumption, rfl⟩)
  split
  · cases hf : s.fault
    · exact .inr (.inr (.inl ⟨by assumption, rfl, by simp [commandRxCtrReset, unlessHalted, hf]⟩))
    · exact .inl (by simp [commandRxCtrReset, unlessHalted, hf])
  split
  · cases hf : s.fault
    · exact .inr (.inr (.inr (.inl ⟨by assumption, rfl, by simp [commandTxCtrReset, unlessHalted, hf]⟩)))
    · exact .inl (by simp [commandTxCtrReset, unlessHalted, hf])
  split
  · refine lift _ (diag _ fun u => ?_)
    cases blkEnc u.variant u.txk (u.dpb.toList.take u.variant.blockCap) u.blkLen with
    | ok c => exact ⟨u.blkLen, 0, u.pkVal, u.dpb, overlay u.dcb c, rfl⟩
    | error x => exact ⟨u.blkLen, diagStatus x, u.pkVal, u.dpb, u.dcb, rfl⟩
  split
  · refine lift _ (diag _ fun u => ?_)
    cases blkDec u.variant u.rxk (u.dcb.toList.take u.variant.encBlockSize) u.lenient with
    | ok d => exact ⟨d.usedLen, bitAt 8 d.warned, u.pkVal, overlay u.dpb d.plain, u.dcb, rfl⟩
    | error x => exact ⟨u.blkLen, diagStatus x, u.pkVal, u.dpb, u.dcb, rfl⟩
  split
  · exact lift _ (diag _ fun u => ⟨u.blkLen, 0, u.pkVal, u.dpb, _, rfl⟩)
  split
  · exact lift _ (diag _ fun u => ⟨u.blkLen, 0, _, u.dpb, u.dcb, rfl⟩)
  · exact .inl rfl

/-- Everything a register write can do (R261): nothing; CTRL; a command; a counter or key register of a disabled path;
or the diagnostic registers and windows. -/
theorem writeNumber_cases (s : State) (n : BitVec 12) (v : Word) :
    writeNumber s n v = s ∨ writeNumber s n v = writeCtrl s v ∨
    (csrOf n = some .cmd ∧ writeNumber s n v = command (v.setWidth 8) s) ∨
    (s.rxEn = false ∧ ∃ c k, writeNumber s n v = { s with rxCtr := c, rxk := k }) ∨
    (s.txEn = false ∧ ∃ c k, writeNumber s n v = { s with txCtr := c, txk := k }) ∨
    (∃ len slot val dp dc,
      writeNumber s n v = { s with blkLen := len, pkSlot := slot, pkVal := val, dpb := dp, dcb := dc }) := by
  unfold writeNumber
  cases hn : csrOf n with
  | none => exact .inl rfl
  | some r =>
    cases r
    case ctrl => exact .inr (.inl rfl)
    case cmd => exact .inr (.inr (.inl ⟨rfl, rfl⟩))
    case rxCtr =>
      cases he : s.rxEn
      · exact .inr (.inr (.inr (.inl ⟨rfl, v.setWidth 8, s.rxk, by simp [writeCsr, he]⟩)))
      · exact .inl (by simp [writeCsr, he])
    case txCtr =>
      cases he : s.txEn
      · exact .inr (.inr (.inr (.inr (.inl ⟨rfl, v.setWidth 8, s.txk, by simp [writeCsr, he]⟩))))
      · exact .inl (by simp [writeCsr, he])
    case key bank file slot =>
      cases bank
      · cases he : s.txEn
        · exact .inr (.inr (.inr (.inr (.inl
            ⟨rfl, s.txCtr, s.txk.write file slot v, by simp [writeCsr, writeKey, he]⟩))))
        · exact .inl (by simp [writeCsr, writeKey, he])
      · cases he : s.rxEn
        · exact .inr (.inr (.inr (.inl ⟨rfl, s.rxCtr, s.rxk.write file slot v, by simp [writeCsr, writeKey, he]⟩)))
        · exact .inl (by simp [writeCsr, writeKey, he])
    case blkLen => exact .inr (.inr (.inr (.inr (.inr ⟨_, s.pkSlot, s.pkVal, s.dpb, s.dcb, rfl⟩))))
    case pkSlot => exact .inr (.inr (.inr (.inr (.inr ⟨s.blkLen, _, s.pkVal, s.dpb, s.dcb, rfl⟩))))
    case pkVal => exact .inr (.inr (.inr (.inr (.inr ⟨s.blkLen, s.pkSlot, _, s.dpb, s.dcb, rfl⟩))))
    case dpb k => exact .inr (.inr (.inr (.inr (.inr ⟨s.blkLen, s.pkSlot, s.pkVal, _, s.dcb, rfl⟩))))
    case dcb k => exact .inr (.inr (.inr (.inr (.inr ⟨s.blkLen, s.pkSlot, s.pkVal, s.dpb, _, rfl⟩))))
    all_goals exact .inl rfl

/-- CMD is the only number of the command register. -/
theorem csrOf_cmdNumber : csrOf cmdNumber = some .cmd := by decide

/-! ### The whole dispatch -/

/-- `exec` always answers a next state. -/
theorem exec_next (i : Instr) (s : State) : ∃ t, exec i s = .next t := by
  cases i <;> simp only [exec]
  case rxByte b => unfold execRxByte notReady; split <;> simp
  case rxDeliver => unfold execRxDeliver notReady; repeat' split
                    all_goals simp
  case rxClose => unfold execRxClose notReady; split <;> simp
  case rxAbort => unfold execRxAbort notReady; split <;> simp
  case txFrame f => unfold execTxFrame notReady; repeat' split
                    all_goals simp
  case txByte => unfold execTxByte notReady; repeat' split
                 all_goals simp
  case txClose => unfold execTxClose notReady; split <;> simp
  case txAbort => unfold execTxAbort notReady; split <;> simp
  all_goals simp [execFrameC1, execFrameC2, execFrameC3, execFrameC4, execCmdNop, execCmdConnReset, execCmdRxCtrReset,
    execCmdTxCtrReset, execCmdBlkEnc, execCmdBlkDec, execCmdPack18, execCmdUnpack18, execCsrRd, execCsrWr,
    execRxProcess, execReset, execModmul, execCsum, execPack18, execUnpack18, execBlkEnc, execBlkDec]

/-- Everything `step` can do: the internal step, the decoded instruction, or an offer the decoder rejects. -/
theorem step_cases (s : State) :
    (s.sched = [] ∧ step s = exec .rxProcess s) ∨
    (∃ o rest i, s.sched = o :: rest ∧ decode o = .ok i ∧ step s = exec i (s.takeOffer rest)) ∨
    (∃ o rest e, s.sched = o :: rest ∧ decode o = .error e ∧ step s = runUndecoded o e (s.takeOffer rest)) := by
  unfold step
  cases hs : s.sched with
  | nil => exact .inl ⟨rfl, rfl⟩
  | cons o rest =>
    cases hd : decode o with
    | ok i => exact .inr (.inl ⟨o, rest, i, rfl, hd, by simp [hd]⟩)
    | error e => exact .inr (.inr ⟨o, rest, e, rfl, hd, by simp [hd]⟩)

end Sys2Proof.Machine
end

