-- ==== Sys2Proof/Laws/Codec.lean ====
section
/-!
SUPPORT. The lengths every codec function keeps, the bytes of the windows, and what a block operation can answer, each
said once.
-/

namespace Sys2Proof.Machine

/-! ### The variant's constants -/

/-- `blockCap = 2 * N` (00_scope.md R8). -/
theorem Variant.blockCap_eq (v : Variant) : v.blockCap = 2 * v.slotCount := by cases v <;> rfl

/-- `encBlockSize = 18 * N / 8 + 2` (00_scope.md R8). -/
theorem Variant.encBlockSize_eq (v : Variant) : v.encBlockSize = 18 * v.slotCount / 8 + 2 := by cases v <;> rfl

theorem Variant.slotCount_le (v : Variant) : v.slotCount ≤ 16 := by cases v <;> decide

theorem Variant.blockCap_pos (v : Variant) : 0 < v.blockCap := by cases v <;> decide

theorem Variant.encBlockSize_pos (v : Variant) : 0 < v.encBlockSize := by cases v <;> decide

/-! ### Bit packing -/

@[simp] theorem setStreamBit_length (bs : List Byte) (pos : Nat) (b : Bool) :
    (setStreamBit bs pos b).length = bs.length := by simp [setStreamBit]

/-- PACK18 keeps the length of its buffer (R136). -/
@[simp] theorem pack18_length (bs : List Byte) (i : Nat) (v : Word) : (pack18 bs i v).length = bs.length := by
  unfold pack18
  generalize List.range 18 = ks
  induction ks generalizing bs with
  | nil => rfl
  | cons k ks ih => rw [List.foldl_cons, ih, setStreamBit_length]

@[simp] theorem packFrom_length (i : Nat) (vs : List Word) (bs : List Byte) :
    (packFrom i vs bs).length = bs.length := by
  induction vs generalizing i bs with
  | nil => rfl
  | cons v vs ih => rw [packFrom, ih, pack18_length]

/-- `packAll` fills `18*N/8` bytes (R140). -/
@[simp] theorem packAll_length (n : Nat) (r : List Word) : (packAll n r).length = 18 * n / 8 := by
  simp [packAll, zeros]

@[simp] theorem unpackAll_length (n : Nat) (bs : List Byte) : (unpackAll n bs).length = n := by
  simp [unpackAll]

/-- The bits of the permutation, as the table of 30_encoding.md R98 gives them (R135). -/
theorem swap18_getLsbD (v : Field) : ∀ k < 18, (swap18 v).getLsbD (17 - k) = v.getLsbD (valueBit k) := by
  intro k hk
  show (v.extractLsb' 0 8 ++ v.extractLsb' 8 8 ++ v.extractLsb' 16 2).getLsbD (17 - k) = _
  rw [BitVec.getLsbD_append, BitVec.getLsbD_append]
  interval_cases k <;> simp [valueBit]

/-- The bits of the inverse permutation (R135). -/
theorem unswap18_getLsbD (p : Field) : ∀ k < 18, (unswap18 p).getLsbD (valueBit k) = p.getLsbD (17 - k) := by
  intro k hk
  show (p.extractLsb' 0 2 ++ p.extractLsb' 2 8 ++ p.extractLsb' 10 8).getLsbD (valueBit k) = _
  rw [BitVec.getLsbD_append, BitVec.getLsbD_append]
  interval_cases k <;> simp [valueBit]

/-! ### The block codec -/

@[simp] theorem slotKeys_length (n : Nat) (a b c : Vector Word 16) : (slotKeys n a b c).length = min n 16 := by
  simp [slotKeys]

/-- N slots take part in a block operation. -/
@[simp] theorem encKeys_length (v : Variant) (bank : KeyBank) : (encKeys v bank).length = v.slotCount := by
  cases v <;> simp [encKeys, Variant.slotCount]

@[simp] theorem decKeys_length (v : Variant) (bank : KeyBank) : (decKeys v bank).length = v.slotCount := by
  cases v <;> simp [decKeys, Variant.slotCount]

@[simp] theorem unfoldStage_length (keys : List SlotKey) (rs : List Word) : (unfoldStage keys rs).length = rs.length := by
  induction keys generalizing rs with
  | nil => rfl
  | cons k ks ih =>
    cases rs with
    | nil => rfl
    | cons r rs =>
      have h := ih rs
      simp only [unfoldStage]
      split
      · rename_i e; rw [e] at h; simp at h; simp [h]
      · rename_i e; rw [e] at h; simp at h; simp [h]

@[simp] theorem wordStage_length (prev : Word) (keys : List SlotKey) (rs : List Word) :
    (wordStage prev keys rs).length = min keys.length rs.length := by
  induction keys generalizing prev rs with
  | nil => simp [wordStage]
  | cons k ks ih =>
    cases rs with
    | nil => simp [wordStage]
    | cons r rs => simp [wordStage, ih]

@[simp] theorem bytesOf_length (ws : List Half) : (bytesOf ws).length = 2 * ws.length := by
  induction ws with
  | nil => rfl
  | cons w ws ih => simp [bytesOf, ih]; omega

/-- BLK.DEC produces all `blockCap` bytes of the block (R154 corner a). -/
@[simp] theorem decPlain_length (v : Variant) (bank : KeyBank) (c : List Byte) :
    (decPlain v bank c).length = v.blockCap := by
  simp [decPlain, v.blockCap_eq]

/-- Everything BLK.ENC can answer (R153). -/
theorem blkEnc_cases (v : Variant) (bank : KeyBank) (p : List Byte) (u : Byte) :
    (v.blockCap < u.toNat ∧ blkEnc v bank p u = .error ⟨.invalidBlockSize, u.setWidth 32, 0⟩) ∨
    (u.toNat ≤ v.blockCap ∧ ∃ x, checkKeys (encKeys v bank) = .error x ∧ blkEnc v bank p u = .error x) ∨
    (u.toNat ≤ v.blockCap ∧ checkKeys (encKeys v bank) = .ok () ∧
      blkEnc v bank p u = .ok (packAll v.slotCount (encRing (encKeys v bank) p) ++
        [u ^^^ blockSizeXorKey ^^^ csum p u.toNat, csum p u.toNat])) := by
  unfold blkEnc
  split
  · exact .inl ⟨by assumption, rfl⟩
  · cases h : checkKeys (encKeys v bank) with
    | error x => exact .inr (.inl ⟨by omega, x, rfl, rfl⟩)
    | ok r => exact .inr (.inr ⟨by omega, rfl, rfl⟩)

/-- An encoded block has `encBlockSize` bytes (R153). -/
theorem blkEnc_length {v : Variant} {bank : KeyBank} {p c : List Byte} {u : Byte} (h : blkEnc v bank p u = .ok c) :
    c.length = v.encBlockSize := by
  rcases blkEnc_cases v bank p u with ⟨-, e⟩ | ⟨-, x, -, e⟩ | ⟨-, -, e⟩ <;> rw [e] at h
  · cases h
  · cases h
  · cases h; simp [v.encBlockSize_eq]

/-- Everything the trailer checks can answer (R154). -/
theorem checkTrailer_cases (v : Variant) (p : List Byte) (t0 t1 : Byte) (lenient : Bool) :
    (v.blockCap < (t0 ^^^ t1 ^^^ blockSizeXorKey).toNat ∧ checkTrailer v p t0 t1 lenient
      = .error ⟨.invalidBlockSize, (t0 ^^^ t1 ^^^ blockSizeXorKey).setWidth 32, 0⟩) ∨
    ((t0 ^^^ t1 ^^^ blockSizeXorKey).toNat ≤ v.blockCap ∧ csum p (t0 ^^^ t1 ^^^ blockSizeXorKey).toNat = t1 ∧
      checkTrailer v p t0 t1 lenient = .ok ⟨p, t0 ^^^ t1 ^^^ blockSizeXorKey, false⟩) ∨
    ((t0 ^^^ t1 ^^^ blockSizeXorKey).toNat ≤ v.blockCap ∧ csum p (t0 ^^^ t1 ^^^ blockSizeXorKey).toNat ≠ t1 ∧
      lenient = true ∧ checkTrailer v p t0 t1 lenient = .ok ⟨p, t0 ^^^ t1 ^^^ blockSizeXorKey, true⟩) ∨
    ((t0 ^^^ t1 ^^^ blockSizeXorKey).toNat ≤ v.blockCap ∧ csum p (t0 ^^^ t1 ^^^ blockSizeXorKey).toNat ≠ t1 ∧
      lenient = false ∧ checkTrailer v p t0 t1 lenient
        = .error ⟨.invalidBlockChecksum, (csum p (t0 ^^^ t1 ^^^ blockSizeXorKey).toNat ++ t1).setWidth 32, 0⟩) := by
  by_cases h1 : v.blockCap < (t0 ^^^ t1 ^^^ blockSizeXorKey).toNat
  · exact .inl ⟨h1, by simp only [checkTrailer]; rw [if_pos h1]⟩
  · refine .inr ?_
    have h1' := Nat.le_of_not_lt h1
    by_cases h2 : csum p (t0 ^^^ t1 ^^^ blockSizeXorKey).toNat = t1
    · exact .inl ⟨h1', h2, by simp only [checkTrailer]; rw [if_neg h1, if_pos h2]⟩
    · cases lenient
      · exact .inr (.inr ⟨h1', h2, rfl, by simp only [checkTrailer]; rw [if_neg h1, if_neg h2]; rfl⟩)
      · exact .inr (.inl ⟨h1', h2, rfl, by simp only [checkTrailer]; rw [if_neg h1, if_neg h2]; rfl⟩)

/-- Everything BLK.DEC can answer (R154). -/
theorem blkDec_cases (v : Variant) (bank : KeyBank) (c : List Byte) (lenient : Bool) :
    (∃ x, checkKeys (decKeys v bank) = .error x ∧ blkDec v bank c lenient = .error x) ∨
    (checkKeys (decKeys v bank) = .ok () ∧ blkDec v bank c lenient =
      checkTrailer v (decPlain v bank c) (c.getD (v.encBlockSize - 2) 0) (c.getD (v.encBlockSize - 1) 0) lenient) := by
  unfold blkDec
  cases h : checkKeys (decKeys v bank) with
  | error x => exact .inl ⟨x, rfl, rfl⟩
  | ok r => exact .inr ⟨rfl, rfl⟩

/-! ### The key check -/

/-- The search for a zero modulus, counted from `n`: none in the list, or the first one. -/
theorem firstZeroFrom_cases (n : Nat) (keys : List SlotKey) :
    (firstZeroFrom n keys = none ∧ ∀ k ∈ keys, k.modulus ≠ 0) ∨
    (∃ pre k post, keys = pre ++ k :: post ∧ k.modulus = 0 ∧ (∀ j ∈ pre, j.modulus ≠ 0) ∧
      firstZeroFrom n keys = some (n + pre.length)) := by
  induction keys generalizing n with
  | nil => exact .inl ⟨rfl, by simp⟩
  | cons k ks ih =>
    by_cases hk : k.modulus = 0
    · exact .inr ⟨[], k, ks, rfl, hk, by simp, by simp [firstZeroFrom, hk]⟩
    · rcases ih (n + 1) with ⟨h, h'⟩ | ⟨pre, x, post, e, hx, hpre, h⟩
      · exact .inl ⟨by rw [firstZeroFrom, if_neg hk, h], List.forall_mem_cons.mpr ⟨hk, h'⟩⟩
      · refine .inr ⟨k :: pre, x, post, by simp [e], hx, List.forall_mem_cons.mpr ⟨hk, hpre⟩, ?_⟩
        simp only [firstZeroFrom, if_neg hk, h, List.length_cons]
        congr 1; omega

/-- Everything the key check can answer (R152). -/
theorem checkKeys_cases (keys : List SlotKey) :
    (checkKeys keys = .ok () ∧ ∀ k ∈ keys, k.modulus ≠ 0) ∨
    (∃ pre k post, keys = pre ++ k :: post ∧ k.modulus = 0 ∧ (∀ j ∈ pre, j.modulus ≠ 0) ∧
      checkKeys keys = .error ⟨.invalidKey, BitVec.ofNat 32 pre.length, 0⟩) := by
  rcases firstZeroFrom_cases 0 keys with ⟨h, h'⟩ | ⟨pre, x, post, e, hx, hpre, h⟩
  · exact .inl ⟨by simp [checkKeys, h], h'⟩
  · exact .inr ⟨pre, x, post, e, hx, hpre, by simp [checkKeys, h]⟩

/-! ### What the two paths can answer for a frame -/

/-- Everything the validation of TXIN can answer (R211). -/
theorem validateTx_cases (f : List Byte) :
    (f = [] ∧ validateTx f = .error (contentLengthFault 0 5)) ∨
    (f ≠ [] ∧ isRecognized (f.getD 0 0) = false ∧
      validateTx f = .error ⟨.invalidPacketHeader, (f.getD 0 0).setWidth 32, 0⟩) ∨
    (isRecognized (f.getD 0 0) = true ∧ (f.length < hdrLen (f.getD 0 0) ∨ totalLen f ≠ f.length) ∧
      validateTx f = .error (contentLengthFault f.length 5)) ∨
    (wholeFrame f = true ∧ validateTx f = .ok ()) := by
  cases f with
  | nil => exact .inl ⟨rfl, rfl⟩
  | cons t rest =>
    cases hr : isRecognized t
    · exact .inr (.inl ⟨by simp, hr, by simp [validateTx, hr]⟩)
    · by_cases hl : (t :: rest).length < hdrLen t ∨ totalLen (t :: rest) ≠ (t :: rest).length
      · refine .inr (.inr (.inl ⟨hr, hl, ?_⟩))
        simp only [validateTx, hr, Bool.not_true, Bool.false_eq_true, if_false]
        rw [if_pos hl]
      · refine .inr (.inr (.inr ⟨?_, ?_⟩))
        · rw [not_or, not_lt, not_not] at hl
          simp only [wholeFrame, List.isEmpty_cons, Bool.not_false, Bool.true_and, Bool.and_eq_true, decide_eq_true_eq]
          exact ⟨⟨hr, hl.1⟩, hl.2⟩
        · simp only [validateTx, hr, Bool.not_true, Bool.false_eq_true, if_false]
          rw [if_neg hl]

/-- The counter after a frame: as it was, or one more in variant `new` (R34). -/
theorem nextCounter_eq (v : Variant) (c : Byte) : nextCounter v c = if v = .new then c + 1 else c := by
  cases v <;> rfl

/-- Everything the encryption of a frame can answer (R212): a fault of R211; the frame itself; for a cipher-qualifying
frame the length fault, a fault of the block loop, or the enciphered frame. -/
theorem encryptFrame_cases (v : Variant) (bank : KeyBank) (ctr : Byte) (f : List Byte) :
    (∃ x, validateTx f = .error x ∧ encryptFrame v bank ctr f = .error x) ∨
    (validateTx f = .ok () ∧ isCipher (f.getD 0 0) = false ∧ encryptFrame v bank ctr f = .ok (f, ctr)) ∨
    (validateTx f = .ok () ∧ isCipher (f.getD 0 0) = true ∧
      encryptFrame v bank ctr f = encryptContent v bank ctr (f.getD 0 0) (f.drop (hdrLen (f.getD 0 0)))) := by
  unfold encryptFrame
  cases hv : validateTx f with
  | error x => exact .inl ⟨x, rfl, rfl⟩
  | ok u =>
    cases hc : isCipher (f.getD 0 0)
    · exact .inr (.inl ⟨rfl, rfl, if_neg (by rw [hc]; decide)⟩)
    · exact .inr (.inr ⟨rfl, rfl, if_pos hc⟩)

/-! ### Windows -/

@[simp] theorem bufOf_get {n : Nat} (bs : List Byte) (k : Fin n) : (bufOf n bs)[k] = bs.getD k 0 := by
  simp [bufOf]

/-- A buffer of the right length is kept as it is. -/
theorem bufOf_toList {n : Nat} {bs : List Byte} (h : bs.length = n) : (bufOf n bs).toList = bs := by
  apply List.ext_getElem
  · simp [h]
  · intro k h1 h2; simp [bufOf, h2]

end Sys2Proof.Machine
end

