-- ==== Sys2Proof/Laws/PerInstr.lean ====
section
/-!
SUPPORT. One statement made per instruction, about the instruction as syntax.
-/

namespace Sys2Proof.Laws.EventEncoding

/-- An instruction without a bit pattern (30_encoding.md R122) is offered as itself, and one with a bit pattern never
is. -/
def Statement (i : Instr) : Prop :=
  i.isEvent = true ↔ encode i = .event i

theorem frameC1 (l : Byte) (c : List Byte) : Statement (.frameC1 l c) := by simp [Statement, Instr.isEvent, encode]
theorem frameC2 (l : Half) (c : List Byte) : Statement (.frameC2 l c) := by simp [Statement, Instr.isEvent, encode]
theorem frameC3 (l : Half) (c : List Byte) : Statement (.frameC3 l c) := by simp [Statement, Instr.isEvent, encode]
theorem frameC4 (l : Half) (c : List Byte) : Statement (.frameC4 l c) := by simp [Statement, Instr.isEvent, encode]
theorem cmdNop : Statement .cmdNop := by simp [Statement, Instr.isEvent, encode, encodeCommand]
theorem cmdConnReset : Statement .cmdConnReset := by simp [Statement, Instr.isEvent, encode, encodeCommand]
theorem cmdRxCtrReset : Statement .cmdRxCtrReset := by simp [Statement, Instr.isEvent, encode, encodeCommand]
theorem cmdTxCtrReset : Statement .cmdTxCtrReset := by simp [Statement, Instr.isEvent, encode, encodeCommand]
theorem cmdBlkEnc : Statement .cmdBlkEnc := by simp [Statement, Instr.isEvent, encode, encodeCommand]
theorem cmdBlkDec : Statement .cmdBlkDec := by simp [Statement, Instr.isEvent, encode, encodeCommand]
theorem cmdPack18 : Statement .cmdPack18 := by simp [Statement, Instr.isEvent, encode, encodeCommand]
theorem cmdUnpack18 : Statement .cmdUnpack18 := by simp [Statement, Instr.isEvent, encode, encodeCommand]
theorem csrRd (n : BitVec 12) : Statement (.csrRd n) := by simp [Statement, Instr.isEvent, encode]
theorem csrWr (n : BitVec 12) (v : Word) : Statement (.csrWr n v) := by simp [Statement, Instr.isEvent, encode]
theorem rxByte (b : Byte) : Statement (.rxByte b) := by simp [Statement, Instr.isEvent, encode]
theorem rxProcess : Statement .rxProcess := by simp [Statement, Instr.isEvent, encode]
theorem rxDeliver : Statement .rxDeliver := by simp [Statement, Instr.isEvent, encode]
theorem rxClose : Statement .rxClose := by simp [Statement, Instr.isEvent, encode]
theorem rxAbort : Statement .rxAbort := by simp [Statement, Instr.isEvent, encode]
theorem txFrame (f : List Byte) : Statement (.txFrame f) := by simp [Statement, Instr.isEvent, encode]
theorem txByte : Statement .txByte := by simp [Statement, Instr.isEvent, encode]
theorem txClose : Statement .txClose := by simp [Statement, Instr.isEvent, encode]
theorem txAbort : Statement .txAbort := by simp [Statement, Instr.isEvent, encode]
theorem reset : Statement .reset := by simp [Statement, Instr.isEvent, encode]
theorem modmul (a : Word) (k : Word) (m : Word) : Statement (.modmul a k m) := by simp [Statement, Instr.isEvent, encode]
theorem csum (p : List Byte) (n : Nat) : Statement (.csum p n) := by simp [Statement, Instr.isEvent, encode]
theorem pack18 (b : List Byte) (j : BitVec 4) (v : Word) : Statement (.pack18 b j v) := by simp [Statement, Instr.isEvent, encode]
theorem unpack18 (b : List Byte) (j : BitVec 4) : Statement (.unpack18 b j) := by simp [Statement, Instr.isEvent, encode]
theorem blkEnc (bank : Bank) (p : List Byte) (u : Byte) : Statement (.blkEnc bank p u) := by simp [Statement, Instr.isEvent, encode]
theorem blkDec (bank : Bank) (c : List Byte) (l : Bool) : Statement (.blkDec bank c l) := by simp [Statement, Instr.isEvent, encode]

end Sys2Proof.Laws.EventEncoding
end

