-- ==== Sys2Proof/Tests/Slice0.lean ====
section
/-!
SUPPORT. Our own tests. Expected values are those of the examples in the rules and of 95_test_vectors.md (V-*), or worked
by hand from the rule named; none was taken from the model. `test_witness_*` show that the hypotheses of the statement of
that name are met, each clause at a value where it begins or ends.
-/

namespace Sys2Proof.Tests

open Sys2Proof.Machine

/-! ### Helpers -/

def file (l : List Nat) : Vector Word 16 := Vector.ofFn fun i => BitVec.ofNat 32 (l.getD i 0)

/-- Key set K1 of 95_test_vectors.md section 2. -/
def k1 : KeyBank where
  mod := file [128079, 164742, 70235, 106898]
  enc := file [23489, 11911, 19816, 13647]
  dec := file [31544, 2047, 57011, 10183]
  xork := file [48413, 46165, 15171, 37433]

/-- Key set KO of 95_test_vectors.md section 2. -/
def ko : KeyBank where
  mod := file [65537, 67497, 69469, 71453, 73449, 75457, 77477, 79509, 81553, 83609, 85677, 87757, 89849, 91953, 94069,
    96197]
  enc := file [4099, 4102, 4103, 4105, 4108, 4109, 4111, 4115, 4115, 4117, 4120, 4121, 4123, 4126, 4127, 4129]
  dec := file [19522, 40462, 37198, 32428, 59056, 33514, 12872, 47261, 56443, 46120, 7216, 44528, 17194, 42901, 22634,
    71874]
  xork := file [0x2143, 0x3377, 0x45AB, 0x57DF, 0x6A13, 0x7C47, 0x8E7B, 0xA0AF, 0xB2E3, 0xC517, 0xD74B, 0xE97F, 0xFBB3,
    0x0DE7, 0x201B, 0x324F]

/-- Both paths enabled, one SMFC talking to itself, variant `new` with K1. -/
def on : State := { State.reset with rxEn := true, txEn := true, txk := k1, rxk := k1 }

/-- The same in variant `old` with KO. -/
def onOld : State := { State.reset with variant := .old, rxEn := true, txEn := true, txk := ko, rxk := ko }

/-- Idle, with keys: the diagnostic commands are enabled. -/
def idle : State := { State.reset with txk := k1, rxk := k1 }

/-- A complete frame waits, and the RX path is offered its step. -/
def onFrame : State := { on with rxbuf := [0xC1, 2], sched := [.event .rxProcess] }

/-- A halted core. -/
def halted : State := { State.reset with rxEn := true, fault := true, errCode := 1 }

/-- A field of the next state; `d` where there is none. -/
def after {α : Type} (i : Instr) (s : State) (f : State → α) (d : α) : α :=
  match exec i s with
  | .next t => f t
  | _ => d

/-- The same for a step. -/
def afterStep {α : Type} (s : State) (f : State → α) (d : α) : α :=
  match step s with
  | .next t => f t
  | _ => d

def okBytes : Except Raised (List Byte) → List Byte
  | .ok b => b
  | .error _ => []

/-- V-F1: the enciphered content of `C3 00 08 01 02 03 04 05`, counter 0. -/
def blockF1 : List Byte := [0x8C, 0x92, 0x4C, 0xF8, 0x80, 0xAF, 0x60, 0x4B, 0x6C, 0xC2, 0xF9]

/-- V-B1: a block with `usedLen` 0. -/
def blockB1 : List Byte := [0x04, 0x89, 0x7C, 0xFD, 0x0B, 0x03, 0x21, 0x9C, 0xAC, 0xC5, 0xF8]

/-- V-B2. -/
def blockB2 : List Byte := [0x0D, 0x5F, 0x3D, 0x71, 0xC9, 0x0F, 0x20, 0x2E, 0x7C, 0xC1, 0xF9]

def plainB2 : List Byte := [1, 2, 3, 4, 5, 0, 0, 0]

/-! ### Decoding: words written out from the encodings -/

/-- R187 to R190 (their examples), R91. -/
theorem test_decode_frames :
    decode (.wire [0xC1, 0x04, 0xAA, 0xBB]) = .ok (.frameC1 4 [0xAA, 0xBB]) ∧
    decode (.wire [0xC2, 0x00, 0x05, 0xAA, 0xBB]) = .ok (.frameC2 5 [0xAA, 0xBB]) ∧
    decode (.wire (0xC3 :: 0x00 :: 0x0E :: blockF1)) = .ok (.frameC3 14 blockF1) ∧
    decode (.wire [0xC4, 0x00, 0x03]) = .ok (.frameC4 3 []) := by decide

/-- R110: one word for each code, with bits 31:8 set in some (R37). -/
theorem test_decode_commands :
    decode (.hostWrite 0x00F 0x00) = .ok .cmdNop ∧ decode (.hostWrite 0x00F 0x01) = .ok .cmdConnReset ∧
    decode (.hostWrite 0x00F 0xFF02) = .ok .cmdRxCtrReset ∧ decode (.hostWrite 0x00F 0x03) = .ok .cmdTxCtrReset ∧
    decode (.hostWrite 0x00F 0x10) = .ok .cmdBlkEnc ∧ decode (.hostWrite 0x00F 0x80000011) = .ok .cmdBlkDec ∧
    decode (.hostWrite 0x00F 0x12) = .ok .cmdPack18 ∧ decode (.hostWrite 0x00F 0x13) = .ok .cmdUnpack18 ∧
    decode (.hostWrite 0x00F 0x7F) = .ok (.csrWr 0x00F 0x7F) ∧
    decode (.hostWrite 0x100 0x0001F44F) = .ok (.csrWr 0x100 0x0001F44F) := by decide

/-- R122: the operations without a bit pattern are events. -/
theorem test_decode_events :
    decode (.event (.csrRd 0x001)) = .ok (.csrRd 0x001) ∧ decode (.event (.rxByte 0xC1)) = .ok (.rxByte 0xC1) ∧
    decode (.event .rxProcess) = .ok .rxProcess ∧ decode (.event .rxDeliver) = .ok .rxDeliver ∧
    decode (.event .rxClose) = .ok .rxClose ∧ decode (.event .rxAbort) = .ok .rxAbort ∧
    decode (.event (.txFrame [0xC1, 2])) = .ok (.txFrame [0xC1, 2]) ∧ decode (.event .txByte) = .ok .txByte ∧
    decode (.event .txClose) = .ok .txClose ∧ decode (.event .txAbort) = .ok .txAbort ∧
    decode (.event .reset) = .ok .reset ∧ decode (.event (.modmul 1 2 3)) = .ok (.modmul 1 2 3) ∧
    decode (.event (.csum [1] 1)) = .ok (.csum [1] 1) ∧
    decode (.event (.pack18 [0, 0, 0] 0 1)) = .ok (.pack18 [0, 0, 0] 0 1) ∧
    decode (.event (.unpack18 [0, 0, 0] 0)) = .ok (.unpack18 [0, 0, 0] 0) ∧
    decode (.event (.blkEnc .txk plainB2 5)) = .ok (.blkEnc .txk plainB2 5) ∧
    decode (.event (.blkDec .rxk blockB2 false)) = .ok (.blkDec .rxk blockB2 false) ∧
    decode (.event .cmdNop) = .error .encodedRow := by decide

/-- R112, R91, R93: what the decoder rejects, by name. -/
theorem test_decode_rejects :
    decode (.wire [0xC5, 0x02]) = .error (.illegalType 0xC5) ∧ decode (.wire [0xC0]) = .error (.illegalType 0xC0) ∧
    decode (.wire []) = .error .emptyOffer ∧ decode (.wire [0xC2, 0x00]) = .error .truncatedHeader ∧
    decode (.wire [0xC1, 0x03]) = .error .lengthMismatch := by decide

/-- Table words: byte 0 is the least significant byte. -/
theorem test_table_words :
    decodeTableWord 16 0x02C1 = some (.frameC1 2 []) ∧ decodeTableWord 24 0x0400C3 = some (.frameC3 4 [0]) ∧
    decodeTableWord 24 0x0300C4 = some (.frameC4 3 []) ∧ decodeTableWord 8 0x13 = some .cmdUnpack18 ∧
    decodeTableWord 0 0 = none := by decide

/-! ### WellFormed: an ill-formed term for each check -/

theorem test_wellformed_refuses :
    WellFormed (.frameC1 4 [0xAA]) = false ∧ WellFormed (.frameC2 3 [0xAA]) = false ∧
    WellFormed (.frameC3 14 []) = false ∧ WellFormed (.frameC4 5 [0, 0, 0]) = false ∧
    WellFormed (.csrWr 0x00F 0xAB10) = false ∧ WellFormed (.csum [1, 2] 3) = false ∧
    WellFormed (.pack18 [0, 0, 0, 0] 1 5) = false ∧ WellFormed (.unpack18 [0, 0] 0) = false ∧
    WellFormed (.blkEnc .txk [0, 0, 0] 1) = false ∧ WellFormed (.blkDec .rxk [0, 0, 0] true) = false := by decide

theorem test_wellformed_refuses_long : WellFormed (.txFrame (List.replicate 65536 0)) = false := by
  simp only [WellFormed, List.length_replicate]; decide

theorem test_wellformed_accepts :
    WellFormed (.frameC1 1 []) = true ∧ WellFormed (.frameC3 14 blockF1) = true ∧
    WellFormed (.csrWr 0x00F 0x04) = true ∧ WellFormed (.pack18 [0, 0, 0, 0, 0] 1 5) = true := by decide

/-! ### One step of each instruction -/

/-- V-M1. -/
theorem test_modmul : modmul 0xBF1C 23489 128079 = 0x0C768 ∧ modmul 0xFFFF 0xFFFFFFFF 0x2FFFF = 72818 ∧
    modmul 0xFFFFFFFF 0xFFFFFFFF 0xFFFFFFFE = 1 ∧ modmul 7 9 1 = 0 := by decide

/-- V-C1. -/
theorem test_csum : csum plainB2 5 = 0xF9 ∧ csum (List.replicate 8 0xFF) 7 = 0x07 ∧ csum [] 0 = 0xF8 ∧
    csum [0x10, 0x20, 0x30, 0x40, 0x50, 0x60, 0x70, 0x80] 8 = 0x78 := by decide

/-- V-P2 rows, R136's examples: the neighbours' bits stay. -/
theorem test_pack18 : pack18 [0, 0, 0] 0 0x12345 = [0x45, 0x23, 0x40] ∧
    pack18 [0, 0, 0, 0, 0] 1 0x12345 = [0, 0, 0x11, 0x48, 0xD0] ∧
    pack18 [0xFF, 0xFF, 0xFF, 0xFF, 0xFF] 1 0 = [0xFF, 0xFF, 0xC0, 0x00, 0x0F] := by decide

/-- V-P5. -/
theorem test_unpack18 :
    (List.range 4).map (unpack18 [0xFF, 0, 0xFF, 0, 0xFF, 0, 0xFF, 0, 0xFF]) = [0x300FF, 0x303FC, 0x30FF0, 0x33FC0] := by
  decide

/-- R131, R133, R134: the tables of offsets and masks. -/
theorem test_pack_helpers :
    (List.range 16).map byteOffset = [0, 2, 4, 6, 9, 11, 13, 15, 18, 20, 22, 24, 27, 29, 31, 33] ∧
    (List.range 5).map firstMask = [0xFF, 0x3F, 0x0F, 0x03, 0xFF] ∧
    (List.range 5).map remainderMask = [0xC0, 0xF0, 0xFC, 0xFF, 0xC0] ∧ swap18 0x12345 = 0x1148D := by decide

/-- V-B2, V-B5: padding enters the packed region and not the trailer. -/
theorem test_blkEnc : okBytes (blkEnc .new k1 plainB2 5) = blockB2 ∧
    okBytes (blkEnc .new k1 [1, 2, 3, 4, 5, 0xAA, 0xBB, 0xCC] 5)
      = [0x0D, 0x5F, 0x27, 0xF9, 0x8D, 0xD6, 0x80, 0xB0, 0x90, 0xC1, 0xF9] := by decide

/-- V-O2: variant `old`. -/
theorem test_blkEnc_old : okBytes (blkEnc .old ko ([0x41, 0x42, 0x43] ++ List.replicate 29 0) 3) =
    [0xB5, 0xDE, 0x22, 0xD7, 0x46, 0xBF, 0x30, 0x85, 0x30, 0xB8, 0x1B, 0x14, 0x1E, 0x13, 0xEB, 0x47, 0x3A, 0x5C, 0x65,
      0x19, 0x66, 0xB6, 0x05, 0x6D, 0x22, 0x5B, 0x50, 0x17, 0x5B, 0x07, 0xA9, 0x48, 0x2F, 0x91, 0x09, 0x64, 0x86,
      0xB8] := by decide +kernel

/-- V-B2 back, and V-B6 bit 0. -/
theorem test_blkDec : after (.blkDec .rxk blockB2 false) on (·.resp) .idle = .block plainB2 5 false ∧
    after (.blkDec .rxk (blockB2.set 10 0xF8) false) on (·.resp) .idle
      = .raised ⟨.invalidBlockChecksum, 0xFCF8, 0⟩ := by decide

/-- V-B6, V-B12: lenient; a flip that passes silently. -/
theorem test_blkDec_flips :
    after (.blkDec .rxk (blockB2.set 10 0xF1) true) on (·.resp) .idle = .raised ⟨.invalidBlockSize, 0x0D, 0⟩ ∧
    after (.blkDec .rxk [0x0D, 0x5F, 0x2F, 0xA8, 0x85, 0x0C, 0x52, 0x03, 0x34, 0xC5, 0xFC] false) on (·.resp) .idle
      = .block [1, 2, 3, 4, 1, 0, 0, 0] 4 false := by decide

/-- V-F5: pass-through. -/
theorem test_frameC1 : after (.frameC1 4 [0xAA, 0xBB]) { on with rxCtr := 7 } (fun t => (t.outf, t.rxPos, t.rxCtr))
    (none, 0, 0) = (some [0xC1, 4, 0xAA, 0xBB], 4, 7) := by decide

/-- V-F5b. -/
theorem test_frameC2 : after (.frameC2 5 [0xAA, 0xBB]) on (fun t => (t.outf, t.rxbuf)) (none, [1])
    = (some [0xC2, 0, 5, 0xAA, 0xBB], []) := by decide

/-- V-F1 received; V-F8. -/
theorem test_frameC3 :
    after (.frameC3 14 blockF1) on (fun t => (t.outf, t.rxCtr, t.rxPos)) (none, 0, 0)
      = (some [0xC3, 0, 8, 1, 2, 3, 4, 5], 1, 14) ∧
    after (.frameC3 3 []) on (fun t => (t.errCode, t.errInfo0, t.errInfo1)) (0, 0, 0) = (5, 0, 4) := by decide

/-- V-F4 received with counter 7, and with counter 8 (R236). -/
theorem test_frameC4 :
    after (.frameC4 14 [0x52, 0xC4, 0x04, 0xB5, 0xA2, 0x85, 0x52, 0x2C, 0xDC, 0xC3, 0xFF]) { on with rxCtr := 7 }
      (fun t => (t.outf, t.rxCtr)) (none, 0) = (some [0xC4, 0, 3], 8) ∧
    after (.frameC4 14 [0x52, 0xC4, 0x04, 0xB5, 0xA2, 0x85, 0x52, 0x2C, 0xDC, 0xC3, 0xFF]) { on with rxCtr := 8 }
      (fun t => (t.errCode, t.errInfo0, t.rxCtr)) (0, 0, 0) = (4, 0x0807, 8) := by decide

/-- R264: nothing. -/
theorem test_cmdNop : after .cmdNop { halted with rxCtr := 5 } (fun t => (t.rxCtr, t.fault, t.errCode)) (0, false, 0)
    = (5, true, 1) := by decide

/-- R265 from the halted state: keys stay, the rest goes. -/
theorem test_cmdConnReset : after .cmdConnReset { on with fault := true, errCode := 4, rxCtr := 9, lenient := true }
    (fun t => (t.fault, t.errCode, t.rxCtr, t.rxEn, t.lenient, t.txk.mod[0])) (true, 1, 1, true, false, 0)
    = (false, 0, 0, false, true, 128079) := by decide

/-- R266, R267 and R263. -/
theorem test_counterResets :
    after .cmdRxCtrReset { on with rxCtr := 0x2A, txCtr := 1 } (fun t => (t.rxCtr, t.txCtr)) (9, 9) = (0, 1) ∧
    after .cmdTxCtrReset { on with rxCtr := 1, txCtr := 0xFF } (fun t => (t.rxCtr, t.txCtr)) (9, 9) = (1, 0) ∧
    after .cmdRxCtrReset { halted with rxCtr := 3 } (·.rxCtr) 9 = 3 := by decide

/-- R268: its example, and V-B11 by the command. -/
theorem test_cmdBlkEnc :
    after .cmdBlkEnc { idle with dpb := bufOf 32 plainB2, blkLen := 5, dcb := bufOf 38 (List.replicate 38 0xEE) }
      (fun t => (t.dcb.toList.take 12, t.blkStatus)) ([], 9) = (blockB2 ++ [0xEE], 0) ∧
    after .cmdBlkEnc { idle with blkLen := 9 } (·.blkStatus) 0 = 0x00090002 := by decide

/-- R269: its two examples. -/
theorem test_cmdBlkDec :
    after .cmdBlkDec { idle with dcb := bufOf 38 blockB2 } (fun t => (t.dpb.toList.take 8, t.blkLen, t.blkStatus))
      ([], 0, 9) = (plainB2, 5, 0) ∧
    after .cmdBlkDec { idle with dcb := bufOf 38 (blockB2.set 10 0xF8) } (·.blkStatus) 0 = 0xFCF80003 := by decide

/-- R270: its example; ignored while a path is enabled. -/
theorem test_cmdPack18 :
    after .cmdPack18 { idle with pkSlot := 1, pkVal := 0x12345 } (fun t => t.dcb.toList.take 6) []
      = [0, 0, 0x11, 0x48, 0xD0, 0] ∧
    after .cmdPack18 { idle with pkSlot := 1, pkVal := 0x12345, txEn := true } (fun t => t.dcb.toList.take 6) []
      = [0, 0, 0, 0, 0, 0] := by decide

/-- R271: its example. -/
theorem test_cmdUnpack18 :
    after .cmdUnpack18 { idle with pkSlot := 2, dcb := bufOf 38 [0xFF, 0, 0xFF, 0, 0xFF, 0, 0xFF, 0, 0xFF] } (·.pkVal) 0
      = 0x30FF0 := by decide

/-- R30, R24: RX_REMAIN and STATUS in AwaitingContent (V-R1, third frame after its header). -/
theorem test_csrRd :
    after (.csrRd 0x00E) { on with rxbuf := [0xC3, 0x00, 0x0E] } (·.resp) .idle = .word 11 ∧
    after (.csrRd 0x001) { on with rxbuf := [0xC3, 0x00, 0x0E] } (·.resp) .idle = .word 0x10 := by decide

/-- V-S2, V-S3, V-S6. -/
theorem test_csrWr :
    after (.csrWr 0x000 0xFFFFFFFF) State.reset (fun t => t.readNumber 0x000) 0 = 0xF ∧
    after (.csrWr 0x000 0) { on with variant := .old, lenient := true } (fun t => t.readNumber 0x000) 0 = 0xF ∧
    after (.csrWr 0x039 0xAABBCCDD) State.reset (fun t => t.readNumber 0x039) 0 = 0xCCDD := by decide

/-- V-S4, V-S5 and the lock of R261. -/
theorem test_csrWr_fields :
    after (.csrWr 0x007 0x1234) State.reset (fun t => t.readNumber 0x007) 0 = 0x34 ∧
    after (.csrWr 0x007 0x1234) on (fun t => t.readNumber 0x007) 9 = 0 ∧
    after (.csrWr 0x013 0xFFFFFFFF) State.reset (fun t => t.readNumber 0x013) 0 = 0x3FFFF := by decide

/-- V-R2: C5 at once; C1 01 on the second byte. -/
theorem test_rxByte :
    after (.rxByte 0xC5) { on with rxPos := 3 } (fun t => (t.errCode, t.errInfo0, t.errPos)) (0, 0, 0) = (1, 0xC5, 3) ∧
    after (.rxByte 0x01) { on with rxbuf := [0xC1] } (fun t => (t.errCode, t.errInfo0, t.errInfo1, t.rxbuf))
      (0, 0, 0, [1]) = (5, 1, 3, []) := by decide

/-- V-F9: 10 bytes of content; the counter stays. -/
theorem test_rxProcess :
    after .rxProcess { on with rxbuf := [0xC3, 0, 0x0D, 0, 0, 0, 0, 0, 0, 0, 0, 0, 0] }
      (fun t => (t.errCode, t.errInfo0, t.errInfo1, t.rxCtr)) (0, 0, 0, 9) = (5, 0x0A, 1, 0) := by decide

/-- R238: its example. -/
theorem test_rxDeliver : after .rxDeliver { on with outf := some [0xC3, 0, 8, 1, 2, 3, 4, 5] }
    (fun t => (t.outf, t.resp)) (none, .idle) = (none, .bytes [0xC3, 0, 8, 1, 2, 3, 4, 5]) := by decide

/-- R191: its example, and a complete frame stays. -/
theorem test_rxClose :
    after .rxClose { on with rxbuf := [0xC3, 0, 0x0E, 0x8C, 0x92] } (fun t => (t.rxbuf, t.rxClosed, t.rxDone))
      ([1], false, false) = ([], true, true) ∧
    after .rxClose { on with rxbuf := [0xC1, 3, 0xAA] } (fun t => (t.rxbuf, t.rxDone)) ([], true)
      = ([0xC1, 3, 0xAA], false) := by decide

/-- R192: its example. -/
theorem test_rxAbort : after .rxAbort { on with outf := some [0xC1, 3, 0xAA], rxbuf := [0xC1, 2] }
    (fun t => (t.outf, t.rxbuf, t.rxDone)) (none, [1], false) = (none, [], true) := by decide

/-- V-F1 sent, and V-F3: two blocks, the counter wraps. -/
theorem test_txFrame :
    after (.txFrame [0xC3, 0, 8, 1, 2, 3, 4, 5]) on (fun t => (t.txout, t.txCtr)) ([], 0)
      = (0xC3 :: 0x00 :: 0x0E :: blockF1, 1) ∧
    after (.txFrame [0xC3, 0, 0x0B, 1, 2, 3, 4, 5, 6, 7, 8]) { on with txCtr := 255 } (fun t => (t.txout, t.txCtr)) ([], 9)
      = ([0xC3, 0x00, 0x19, 0xA2, 0xDA, 0x57, 0x23, 0x86, 0xAE, 0x12, 0x28, 0xDD, 0x32, 0x07, 0xBE, 0x21, 0x17, 0xC8,
          0x1E, 0xEA, 0x31, 0xDB, 0xF0, 0xCC, 0xF0], 0) := by decide +kernel

/-- R211 checks 1 and 3; V-F7 in variant `old`. -/
theorem test_txFrame_faults :
    after (.txFrame []) { on with txPos := 6 } (fun t => (t.errCode, t.errInfo0, t.errInfo1, t.errPos)) (0, 9, 0, 0)
      = (0x105, 0, 5, 6) ∧
    after (.txFrame [0xC2, 0]) on (fun t => (t.errCode, t.errInfo0, t.errInfo1)) (0, 0, 0) = (0x105, 2, 5) ∧
    after (.txFrame [0xC3, 0, 3]) { onOld with txCtr := 9 } (fun t => (t.txout, t.txCtr)) ([], 0) = ([0xC3, 0, 3], 9) := by
  decide

/-- R216: its example, the first byte. -/
theorem test_txByte : after .txByte { on with txout := [0xC1, 3, 0xAA] } (fun t => (t.txout, t.txPos, t.resp)) ([], 0, .idle)
    = ([3, 0xAA], 1, .byte 0xC1) := by decide

/-- R217, R218: what waits in TXOUT stays, or goes. -/
theorem test_txClose_txAbort :
    after .txClose { on with txout := [1, 2] } (fun t => (t.txout, t.txClosed, t.txDone)) ([], false, true)
      = ([1, 2], true, false) ∧
    after .txAbort { on with txout := [0x0E, 0x8C, 0x92] } (fun t => (t.txout, t.txClosed, t.txDone)) ([1], false, false)
      = ([], true, true) := by decide

/-- R360. -/
theorem test_reset : after .reset { on with fault := true, rxCtr := 5 } (fun t => (t.fault, t.rxCtr, t.txk.mod[0], t.rxEn))
    (true, 1, 1, true) = (false, 0, 0, false) := by decide

/-- A step runs the offer: C1 03 AA arrives whole and lies in OUTF; an illegal byte halts. -/
theorem test_step :
    afterStep { on with sched := [.wire [0xC1, 3, 0xAA]] } (fun t => (t.outf, t.sched)) (none, [.wire []])
      = (some [0xC1, 3, 0xAA], []) ∧
    afterStep { on with sched := [.wire [0x7F, 0xC1]] } (fun t => (t.errCode, t.errInfo0)) (0, 0) = (1, 0x7F) := by decide

/-- An instruction placed by `withFetchWord` is the first one run after reset: CMD.BLK_ENC without keys. -/
theorem test_withFetchWord : afterStep (State.reset.withFetchWord 8 0x10) (·.blkStatus) 0 = 0x00000006 := by decide

/-! ### The hypotheses of the statements are met -/

theorem test_witness_DecodeOfEncode :
    WellFormed (.frameC1 0 []) = true ∧ WellFormed (.frameC2 3 []) = true ∧ WellFormed (.frameC3 14 blockF1) = true ∧
    WellFormed (.csrWr 0x00F 0x14) = true ∧ WellFormed (.csrWr 0x010 0x10) = true ∧ WellFormed (.csum [1, 2] 2) = true ∧
    WellFormed (.blkEnc .rxk plainB2 255) = true := by decide

theorem test_witness_DecodeOfEncode_long : WellFormed (.frameC2 65535 (List.replicate 65532 0)) = true := by
  simp only [WellFormed, List.length_replicate]; decide

theorem test_witness_EncodeOfDecoded :
    decode (.wire [0xC1, 2]) = .ok (.frameC1 2 []) ∧ decode (.event .txByte) = .ok .txByte ∧
    decode (.hostWrite 0x00F 0xFFFFFF13) = .ok .cmdUnpack18 ∧
    decode (.hostWrite 0xFFF 0) = .ok (.csrWr 0xFFF 0) := by decide

theorem test_witness_StepRunsDecoded :
    { on with sched := [.wire [0xC1, 2], .event .txByte] }.sched = .wire [0xC1, 2] :: [.event .txByte] ∧
    decode (.wire [0xC1, 2]) = .ok (.frameC1 2 []) := by decide

theorem test_witness_StepRunsTableWord : decodeTableWord 16 0xFFC1 = some (.frameC1 255 (List.replicate 253 0)) := by
  decide +kernel

theorem test_witness_IdleStepProcesses : State.reset.sched = [] := by decide

theorem test_witness_StepOnRejectedOffer :
    { on with sched := [.wire [0xC5]] }.sched = [Offer.wire [0xC5]] ∧
    decode (.wire [0xC5]) = .error (.illegalType 0xC5) ∧ decode (.wire []) = .error .emptyOffer ∧
    Instr.isEvent .cmdNop = false := by decide

theorem test_witness_StepOnRejectedOffer_fault :
    step { on with sched := [.event .cmdNop] } = .fault (.undecodable .encodedRow) := by rfl

theorem test_witness_FrameIsItsBytes : RxWaiting on ∧ RxWaiting onOld ∧ (List.replicate 253 (0 : Byte)).length ≤ 253 ∧
    ([] : List Byte).length ≤ 253 := by decide +kernel

theorem test_witness_FrameIsItsBytes_long : (List.replicate 65532 (0 : Byte)).length ≤ 65532 := by
  simp only [List.length_replicate]; decide

theorem test_witness_PassThroughBothWays :
    RxWaiting on ∧ on.outf = none ∧ TxWaiting on ∧ RxHolds { on with rxbuf := shortOf [] } (shortOf []) ∧
    RxHolds { onOld with rxbuf := longOf 0xC2 [7] } (longOf 0xC2 [7]) ∧
    (0x00#8).toNat < 0xC3 ∧ (0xC0#8).toNat < 0xC3 ∧ (0xC0#8) ≠ 0xC1 ∧ (0xC0#8) ≠ 0xC2 := by decide

/-- Variant `new`, one block; the counter byte is in front. -/
theorem test_witness_CipherFrameIsDeciphered :
    blockF1.length = 11 ∧ blkDec .new k1 blockF1 false = .ok ⟨[0, 1, 2, 3, 4, 5, 0, 0], 6, false⟩ ∧ KeysUsable .new k1 ∧
    RxHolds { on with rxbuf := longOf 0xC3 blockF1 } (longOf 0xC3 blockF1) ∧ RxWaiting on ∧ on.outf = none := by decide

theorem test_witness_CipherFrameIsDeciphered_blocks :
    CipherClass 0xC3 Instr.frameC3 ∧ CipherClass 0xC4 Instr.frameC4 ∧
    BlocksOk on [blockF1] [⟨[0, 1, 2, 3, 4, 5, 0, 0], 6, false⟩] ∧
    (on.variant = .new → [(⟨[0, 1, 2, 3, 4, 5, 0, 0], 6, false⟩ : Decoded)] ≠ []) :=
  ⟨.inl ⟨rfl, rfl⟩, .inr ⟨rfl, rfl⟩, ⟨.cons (by decide) .nil, by decide⟩, by decide⟩

/-- Variant `old`, no block. -/
theorem test_witness_CipherFrameIsDeciphered_old : BlocksOk onOld [] [] ∧ KeysUsable .old ko ∧ onOld.variant ≠ .new :=
  ⟨⟨.nil, by decide⟩, by decide, by decide⟩

theorem test_witness_ContentNotMultiple :
    ([0] : List Byte).length % Variant.new.encBlockSize ≠ 0 ∧ (List.replicate 10 (0 : Byte)).length % 11 ≠ 0 ∧
    (List.replicate 11 (0 : Byte)).length % Variant.old.encBlockSize ≠ 0 := by decide

theorem test_witness_MissingCounter :
    on.variant = .new ∧ onOld.variant = .old ∧ KeysUsable .old onOld.rxk ∧ blockB1.length = 11 ∧
    blkDec .new on.rxk blockB1 on.lenient = .ok ⟨[0, 0, 0, 0, 0, 0, 0, 0], 0, false⟩ := by decide

theorem test_witness_CounterMismatch :
    blkDec .new k1 blockF1 false = .ok ⟨[0, 1, 2, 3, 4, 5, 0, 0], 6, false⟩ ∧
    ([0, 1, 2, 3, 4, 5, 0, 0] : List Byte).getD 0 0 ≠ { on with rxCtr := 1 }.rxCtr ∧
    RxWaiting { on with rxCtr := 1 } := by decide

/-- `usedLen` 9, the least that exceeds a block of variant `new`. -/
def block9 : List Byte := [0, 0, 0, 0, 0, 0, 0, 0, 0, 0x34, 0]

theorem test_witness_BlockSizeFault :
    Variant.new.blockCap < (trailerUsed .new block9).toNat ∧ block9.length = Variant.new.encBlockSize ∧
    KeysUsable .new on.rxk := by decide

theorem test_witness_BlockChecksumFault :
    on.lenient = false ∧ (trailerUsed .new (blockB2.set 10 0xF8)).toNat ≤ Variant.new.blockCap ∧
    csum (decPlain .new k1 (blockB2.set 10 0xF8)) 4 = 0xFC ∧ trailerUsed .new (blockB2.set 10 0xF8) = 4 ∧
    (blockB2.set 10 0xF8).getD 10 0 = 0xF8 ∧ BlocksOk on [] [] ∧ { on with lenient := true }.errCode = 0 := by
  refine ⟨by decide, by decide, by decide, by decide, by decide, ⟨.nil, by decide⟩, by decide⟩

theorem test_witness_Warnings :
    { on with rxbuf := [0xC1, 2] }.rxState = .emit ∧
    after .rxProcess { on with rxbuf := [0xC1, 2] } (·.fault) true = false ∧
    { on with rxbuf := [0xC3, 0, 3] }.rxState = .emit ∧
    after .rxProcess { on with rxbuf := [0xC3, 0, 3] } (·.fault) false = true := by decide

theorem test_witness_IllegalTypeByte : RxWaiting on ∧ TxWaiting on ∧ (0xC5#8) ≠ 0xC1 ∧ (0xC5#8) ≠ 0xC4 ∧ (0x00#8) ≠ 0xC1 := by
  decide

theorem test_witness_ShortDeclaredLength :
    (1#8).toNat < 2 ∧ (2#8).toNat < 3 ∧ { on with rxbuf := [0xC1] }.rxEn = true ∧
    { on with rxbuf := [0xC4, 0] }.rxClosed = false := by decide

theorem test_witness_FramerTransitions :
    assembling [] = true ∧ isRecognized 0xC1 = true ∧ isRecognized 0xC0 = false ∧ assembling [0xC2] = true ∧
    hdrLen 0xC2 = 3 ∧ assembling [0xC3, 0] = true ∧ totalLen [0xC3, 0, 2] < hdrLen 0xC3 ∧
    totalLen [0xC3, 0, 3] = hdrLen 0xC3 ∧ hdrLen 0xC3 < totalLen [0xC3, 0, 4] ∧
    assembling [0xC1, 4, 0] = true ∧ rxStateOf [0xC1, 4, 0] = .awaitingContent ∧ rxRemainOf [0xC1, 4, 0] = 1 ∧
    rxRemainOf [0xC1, 4] = 2 ∧ 5 < totalLen [0xC1, 6] := by decide

theorem test_witness_RxCloseAbortDeliver :
    on.rxEn = true ∧ on.fault = false ∧ on.rxClosed = false ∧ { on with outf := some [0xC1, 2] }.outf = some [0xC1, 2] := by
  decide

theorem test_witness_TxFrameEnciphers :
    TxWaiting on ∧ encipheredLen .new 0 = 14 ∧ encipheredLen .new 47655 ≤ 65535 ∧ encipheredLen .old 55168 ≤ 65535 ∧
    KeysUsable on.variant on.txk ∧ TxWaiting onOld ∧ KeysUsable .old onOld.txk := by decide

theorem test_witness_TxLengthLaw :
    after (.txFrame (longOf 0xC3 [1, 2, 3, 4, 5])) on (·.fault) true = false ∧
    after (.txFrame (longOf 0xC4 [])) onOld (·.fault) true = false := by decide

theorem test_witness_TxValidation :
    TxWaiting on ∧ ([0xC2, 0] : List Byte).length < hdrLen 0xC2 ∧ totalLen [0xC1, 2, 0] ≠ 3 ∧ totalLen [0xC3, 0, 2] ≠ 3 := by
  decide

theorem test_witness_TxOversized : TxWaiting on ∧ KeysUsable .new on.txk ∧ KeysUsable .old onOld.txk ∧
    on.variant = .new ∧ onOld.variant = .old := by decide

theorem test_witness_TxOversized_lengths :
    47655 < (List.replicate 47656 (0 : Byte)).length ∧ (List.replicate 65532 (0 : Byte)).length ≤ 65532 ∧
    55168 < (List.replicate 55169 (0 : Byte)).length ∧ (List.replicate 47655 (0 : Byte)).length ≤ 47655 := by
  simp only [List.length_replicate]; decide

theorem test_witness_InvalidKeyFault :
    LowestZeroSlot .new (k1.write .mod 3 0) 3 ∧ LowestZeroSlot .old (ko.write .mod 15 0) 15 ∧
    LowestZeroSlot .new KeyBank.zero 0 ∧ blockF1.length % Variant.new.encBlockSize = 0 ∧ blockF1 ≠ [] ∧
    encipheredLen .new 0 ≤ 65535 := by decide

theorem test_witness_TxByteCloseAbort :
    { on with txout := [7] }.txout = 7 :: [] ∧ on.txEn = true ∧ on.txClosed = false := by decide

theorem test_witness_PortStepsWait :
    State.reset.rxEn = false ∧ halted.fault = true ∧ { on with rxClosed := true }.rxClosed = true ∧
    { on with rxbuf := [0xC1, 2] }.rxState = .emit ∧ on.rxState ≠ .emit ∧ { on with outf := some [] }.outf ≠ none ∧
    { on with txout := [1] }.txout ≠ [] ∧ { on with txClosed := true }.txClosed = true := by decide

theorem test_witness_NopAndCounterResets : on.fault = false ∧ halted.fault = true := by decide

theorem test_witness_CmdBlkEncResult :
    idle.fault = false ∧ idle.rxEn = false ∧ idle.txEn = false ∧ { idle with blkLen := 8 }.blkLen.toNat ≤ 8 ∧
    KeysUsable .new idle.txk ∧ Variant.new.blockCap < { idle with blkLen := 9 }.blkLen.toNat ∧
    LowestZeroSlot .new State.reset.txk 0 ∧ on.rxEn = true := by decide

theorem test_witness_CmdBlkDecResult :
    blkDec .new idle.rxk ((bufOf 38 blockB2).toList.take 11) false = .ok ⟨plainB2, 5, false⟩ ∧
    LowestZeroSlot .new State.reset.rxk 0 ∧ Variant.new.blockCap < (trailerUsed .new block9).toNat ∧
    csum (decPlain .new idle.rxk (blockB2.set 10 0xF8)) 4 ≠ 0xF8 := by decide

theorem test_witness_CsrMap :
    Unmapped 0x014 ∧ Unmapped 0x01F ∧ Unmapped 0x028 ∧ Unmapped 0x03A ∧ Unmapped 0x0FF ∧ Unmapped 0x140 ∧
    Unmapped 0x1FF ∧ Unmapped 0x240 ∧ Unmapped 0xFFF ∧ ¬ Unmapped 0x039 ∧ ¬ Unmapped 0x13F := by
  refine ⟨?_, ?_, ?_, ?_, ?_, ?_, ?_, ?_, ?_, ?_, ?_⟩ <;> decide

theorem test_witness_CsrWriteLocks : idle.rxEn = false ∧ idle.txEn = false ∧ on.rxEn = true ∧ on.txEn = true := by decide

theorem test_witness_CommandWrites :
    (0x80000010#32).setWidth 8 = 0x10#8 ∧ 0x04 ≤ ((0x104#32).setWidth 8 : Byte).toNat ∧
    0x14 ≤ ((0x14#32).setWidth 8 : Byte).toNat := by decide

theorem test_witness_InvariantKept : Inv onFrame ∧ Inv halted ∧
    afterStep onFrame (·.outf) none = some [0xC1, 2] := ⟨by decide, by decide, by decide⟩

theorem test_witness_FaultEntry :
    after (.txFrame []) on (·.fault) false = true ∧ after (.rxByte 0) on (·.fault) false = true ∧ on.fault = false ∧
    after .cmdNop halted (·.resp) .idle = .done := by decide

theorem test_witness_HaltedState :
    halted.fault = true ∧ isResetInstr .cmdConnReset = true ∧ isResetInstr (.csrWr 0x00F 0xFF01) = true ∧
    isResetInstr (.csrWr 0x00F 0x02) = false ∧ isRxInstr .rxProcess = true ∧ isTxInstr .txByte = true := by decide

theorem test_witness_EnabledPathLocked :
    on.rxEn = true ∧ on.txEn = true ∧ isResetInstr (.csrWr 0x000 0) = false ∧
    after (.frameC3 14 blockF1) on (·.rxCtr) 9 = on.rxCtr + 1 ∧
    after (.csrWr 0x00F 0x0102) { on with rxCtr := 7 } (·.rxCtr) 9 = 0 ∧
    after .cmdTxCtrReset { on with txCtr := 7 } (·.txCtr) 9 = 0 := by decide

theorem test_witness_PathsReadApart :
    TxAgree on { on with rxCtr := 4, rxbuf := [0xC1], rxk := ko, txk := k1.write .dec 0 5, lenient := true } ∧
    RxAgree on { on with txCtr := 4, txout := [1], txk := ko, rxk := k1.write .enc 0 5 } := by decide

theorem test_witness_PackUnpackBits :
    18 * (15#4).toNat / 8 + 3 ≤ (List.replicate 36 (0 : Byte)).length ∧ (0#4) ≠ 15#4 := by decide

theorem test_witness_ModmulExact_CsumFold :
    halted.fault = true ∧ after (.csum [] 0) halted (·.resp) .idle = .byte 0xF8 ∧ (1#32) ≠ 0 ∧ (0xFFFFFFFF#32) ≠ 0 ∧ (0 : Nat) ≤ ([] : List Byte).length ∧ 8 ≤ plainB2.length := by decide

theorem test_witness_MicroOutsideDomain :
    plainB2.length < 9 ∧ ([0, 0] : List Byte).length < 18 * (0#4).toNat / 8 + 3 ∧ plainB2.length ≠ onOld.variant.blockCap ∧
    KeysUsable .old (onOld.bank .txk) ∧ LowestZeroSlot .new (State.reset.bank .rxk) 0 ∧
    LowestZeroSlot .new (State.reset.bank .txk) 0 ∧ ([] : List Byte).length ≠ State.reset.variant.blockCap ∧
    (8#8).toNat ≤ State.reset.variant.blockCap := by decide

theorem test_witness_ByteForm_PackLaws : 18 * (1#4).toNat / 8 + 3 ≤ ([0, 0, 0, 0, 0] : List Byte).length ∧ (0#4) ≠ 1#4 := by
  decide

theorem test_witness_PackAllRoundTrip : (List.replicate 4 (5 : Word)).length = 4 ∧
    (List.replicate 16 (0xFFFFFFFF : Word)).length = 16 := by decide

theorem test_witness_BlkEncFormula :
    plainB2.length = on.variant.blockCap ∧ (8#8).toNat ≤ on.variant.blockCap ∧ on.variant.blockCap < (9#8).toNat ∧
    KeysUsable .new (on.bank .txk) ∧ LowestZeroSlot .new (State.reset.bank .txk) 0 := by decide

theorem test_witness_BlkDecFormula :
    blockB2.length = on.variant.encBlockSize ∧ KeysUsable .new (on.bank .rxk) ∧
    LowestZeroSlot .new (State.reset.bank .rxk) 0 := by decide

/-- The three rows of the table of 30_encoding.md R98 at their ends: position 0, 7, 8, 15, 16 and 17. -/
theorem test_valueBit : [0, 7, 8, 15, 16, 17].map valueBit = [7, 0, 15, 8, 17, 16] := by decide

/-- Both key sets of section 2 are matching pairs. -/
theorem test_witness_BlockRoundTrip : MatchingPair .new k1 k1 ∧ MatchingPair .old ko ko ∧
    plainB2.length = Variant.new.blockCap ∧ (0#8).toNat ≤ 8 ∧ (32#8).toNat ≤ Variant.old.blockCap := by decide

theorem test_witness_TrailerFlip :
    blkDec .new k1 blockB2 false = .ok ⟨plainB2, 5, false⟩ ∧ Variant.new.blockCap < (5#8 ^^^ 1#8 <<< 3).toNat ∧
    (5#8 ^^^ 1#8 <<< 0).toNat ≤ Variant.new.blockCap ∧
    blkDec .new k1 [0x0D, 0x5F, 0x2F, 0xA8, 0x85, 0x0C, 0x52, 0x03, 0x34, 0xC5, 0xFD] false
      = .ok ⟨[1, 2, 3, 4, 1, 0, 0, 0], 5, false⟩ := by decide

theorem test_witness_FrameRoundTrip :
    sendable .new [0xC3, 0, 8, 1, 2, 3, 4, 5] = true ∧ sendable .new [0xC1, 2] = true ∧ sendable .old [0xC4, 0, 3] = true ∧
    TxWaiting on ∧ RxHolds { on with rxbuf := 0xC3 :: 0 :: 0x0E :: blockF1 } (0xC3 :: 0 :: 0x0E :: blockF1) ∧
    after (.txFrame [0xC3, 0, 8, 1, 2, 3, 4, 5]) on (·.txout) [] = 0xC3 :: 0 :: 0x0E :: blockF1 := by
  decide +kernel

theorem test_witness_SequenceRoundTrip :
    TxWaiting on ∧ RxWaiting on ∧ on.outf = none ∧ MatchingPair on.variant on.txk on.rxk ∧ on.rxCtr = on.txCtr ∧
    (∀ f ∈ [[0xC1, 2], [0xC3, 0, 3], [0xC4, 0, 4, 9]], sendable on.variant f = true) := by decide

end Sys2Proof.Tests
end

/-!
The register port: what CSR.RD and CSR.WR do at a mapped number (45_system_ops.md R260, R261), the fields of STATUS
(10_state.md R32), and a write of CMD as a command (R37, R110, R111).
-/

namespace Sys2Proof.Machine

/-! ### The register port at a mapped number -/

/-- CSR.RD of a mapped number answers the value of its register (R260). -/
theorem csrReads_of_csrOf {n : BitVec 12} {r : Csr} (h : csrOf n = some r) (s : State) :
    CsrReads s n (s.readCsr r) := by
  have hread : s.readNumber n = s.readCsr r := by simp [State.readNumber, h]
  rw [CsrReads, ← hread]
  rfl

/-- CSR.WR to a mapped number is the write of its register (R261). -/
theorem csrWrites_of_csrOf {n : BitVec 12} {r : Csr} (h : csrOf n = some r) (s : State) (v : Word) :
    CsrWrites s n v (writeCsr s r v) := by
  have hwrite : writeNumber s n v = writeCsr s r v := by simp [writeNumber, h]
  rw [CsrWrites, ← hwrite]
  rfl

/-- STATUS is number 0x001 (R30). -/
theorem csrOf_status : csrOf 0x001 = some .status := by decide

/-! ### Words made of fields -/

/-- `bitAt k b` has its bit `k` equal to `b`, and no other bit set. -/
theorem getLsbD_bitAt {k : Nat} (hk : k < 32) (b : Bool) (i : Nat) :
    (bitAt k b).getLsbD i = (decide (i = k) && b) := by
  rw [bitAt, BitVec.getLsbD_shiftLeft, BitVec.getLsbD_setWidth, BitVec.getLsbD_ofBool]
  rcases Nat.lt_trichotomy i k with h | rfl | h
  · simp [h, h.ne]
  · simp [hk]
  · have : i - k ≠ 0 := by omega
    simp [this, h.ne']

/-- A field that does not hold bit `k` reads 0 in `bitAt k b`. -/
theorem extractLsb'_bitAt_of_outside {start len k : Nat} (hk : k < 32) (h : k < start ∨ start + len ≤ k) (b : Bool) :
    (bitAt k b).extractLsb' start len = 0 := by
  ext j hj
  have hne : start + j ≠ k := by omega
  rw [BitVec.getElem_extractLsb', getLsbD_bitAt hk]
  simp [hne]

/-- The two-bit field RX_STATE, shifted to bits 5:4, sets no other bit. -/
theorem getLsbD_rxStateField (c : BitVec 2) (i : Nat) (h : i < 4 ∨ 6 ≤ i) :
    (c.setWidth 32 <<< 4 : Word).getLsbD i = false := by
  rcases h with h | h
  · simp [h]
  · have : c.getLsbD (i - 4) = false := BitVec.getLsbD_of_ge _ _ (by omega)
    simp [this]

/-! ### The fields of STATUS (R32) -/

/-- A bit of STATUS outside RX_STATE is set exactly when it is one of the eight flags and that flag's view holds. -/
theorem getLsbD_statusWord (s : State) (i : Nat) (h : i < 4 ∨ 6 ≤ i) :
    s.statusWord.getLsbD i =
      ((decide (i = 0) && s.fault) || (decide (i = 1) && s.warnCnt != 0) || (decide (i = 2) && s.rxClosed) ||
        (decide (i = 3) && s.txClosed) || (decide (i = 6) && s.outf.isSome) || (decide (i = 7) && !s.txout.isEmpty) ||
        (decide (i = 8) && s.rxDone) || (decide (i = 9) && s.txDone)) := by
  simp only [State.statusWord, BitVec.getLsbD_or, getLsbD_rxStateField _ i h, getLsbD_bitAt, Nat.reduceLT,
    Bool.or_false]

/-- Bits 5:4 of STATUS are RX_STATE. -/
theorem statusWord_rxState (s : State) : s.statusWord.extractLsb' 4 2 = s.rxState.code := by
  have hfield : ∀ c : BitVec 2, (c.setWidth 32 <<< 4 : Word).extractLsb' 4 2 = c := by decide
  simp [State.statusWord, BitVec.extractLsb'_or, extractLsb'_bitAt_of_outside, hfield]

/-- Bits 31:10 of STATUS are reserved and read 0. -/
theorem statusWord_reserved (s : State) : s.statusWord.extractLsb' 10 22 = 0 := by
  have hfield : ∀ c : BitVec 2, (c.setWidth 32 <<< 4 : Word).extractLsb' 10 22 = 0 := by decide
  simp [State.statusWord, BitVec.extractLsb'_or, extractLsb'_bitAt_of_outside, hfield]

/-- RX_DONE (R27). -/
theorem rxDone_iff {s : State} : s.rxDone = true ↔ s.rxClosed = true ∧ s.rxbuf = [] ∧ s.outf = none := by
  simp [State.rxDone, and_assoc]

/-- TX_DONE (R29). -/
theorem txDone_iff {s : State} : s.txDone = true ↔ s.txClosed = true ∧ s.txout = [] := by
  simp [State.txDone]

/-! ### Commands (R110, R111) -/

/-- The codes that name no command are those R110 does not list. -/
theorem commandOf_eq_none_iff (code : Byte) : commandOf code = none ↔ code ∉ listedCommandCodes := by
  unfold commandOf
  split_ifs <;> simp_all [listedCommandCodes]

/-- The command of a listed code does what that command's row does. -/
theorem exec_of_commandOf {code : Byte} {i : Instr} (h : commandOf code = some i) (s : State) :
    exec i s = .next ((command code s).respond .done) := by
  have hlisted : code ∈ listedCommandCodes := by
    by_contra hn
    simp [(commandOf_eq_none_iff code).mpr hn] at h
  simp only [listedCommandCodes, List.mem_cons, List.not_mem_nil, or_false] at hlisted
  rcases hlisted with rfl | rfl | rfl | rfl | rfl | rfl | rfl | rfl <;> cases h <;> rfl

/-- A reserved code does nothing (R111). -/
theorem command_of_commandOf_none {code : Byte} (h : commandOf code = none) (s : State) : command code s = s := by
  rw [commandOf_eq_none_iff] at h
  simp only [listedCommandCodes, List.mem_cons, List.not_mem_nil, or_false, not_or] at h
  simp only [command, h, if_false]

/-- The two ranges of reserved codes (R111). -/
theorem commandOf_reserved {code : Byte} (h : (0x04 ≤ code.toNat ∧ code.toNat ≤ 0x0F) ∨ 0x14 ≤ code.toNat) :
    commandOf code = none := by
  rw [commandOf_eq_none_iff]
  simp only [listedCommandCodes, List.mem_cons, List.not_mem_nil, or_false]
  rintro (rfl | rfl | rfl | rfl | rfl | rfl | rfl | rfl) <;> simp at h

/-- A write of CMD is the command of bits 7:0 of the written value (R37). -/
theorem csrWrites_cmd (s : State) (v : Word) : CsrWrites s 0x00F v (command (v.setWidth 8) s) :=
  csrWrites_of_csrOf csrOf_cmdNumber s v

/-- A write of CMD whose bits 7:0 are a listed code is that command's row, whatever bits 31:8 are. -/
theorem exec_csrWr_cmd_of_commandOf {v : Word} {i : Instr} (h : commandOf (v.setWidth 8) = some i) (s : State) :
    exec (.csrWr 0x00F v) s = exec i s := by
  rw [exec_of_commandOf h, csrWrites_cmd]
  rfl

/-- A write of CMD whose bits 7:0 are a reserved code changes nothing. -/
theorem csrWrites_cmd_of_commandOf_none {v : Word} (h : commandOf (v.setWidth 8) = none) (s : State) :
    CsrWrites s 0x00F v s := by
  simpa [command_of_commandOf_none h] using csrWrites_cmd s v

/-! ### The obligations of the register port -/

/-- Settles O36: number 0x001 is STATUS, whose write is ignored; each flag is read off `getLsbD_statusWord` and restated
by what its view means. -/
theorem statusFields : Obligations.StatusFields := by
  intro s
  refine ⟨csrReads_of_csrOf csrOf_status s, csrWrites_of_csrOf csrOf_status s, ?fault, ?warned, ?rxClosed, ?txClosed,
    ?rxState, ?outf, ?txout, ?rxDone, ?txDone, statusWord_reserved s⟩
  case fault => rw [getLsbD_statusWord s _ (by decide)]; simp
  case warned => rw [getLsbD_statusWord s _ (by decide)]; simp
  case rxClosed => rw [getLsbD_statusWord s _ (by decide)]; simp
  case txClosed => rw [getLsbD_statusWord s _ (by decide)]; simp
  case rxState =>
    rw [statusWord_rxState]
    cases s.rxState <;> rfl
  case outf => rw [getLsbD_statusWord s _ (by decide)]; simp [Option.isSome_iff_ne_none]
  case txout => rw [getLsbD_statusWord s _ (by decide)]; simp
  case rxDone => rw [getLsbD_statusWord s _ (by decide)]; simp [rxDone_iff]
  case txDone => rw [getLsbD_statusWord s _ (by decide)]; simp [txDone_iff]

/-- Settles O40: the code in bits 7:0 selects the command through R110's table; a code of the two reserved ranges is not
in it. -/
theorem commandWrites : Obligations.CommandWrites := by
  intro s v
  have listed (i : Instr) (code : Byte) (hi : commandOf code = some i) (hv : v.setWidth 8 = code) :
      exec (.csrWr 0x00F v) s = exec i s :=
    exec_csrWr_cmd_of_commandOf (hv ▸ hi) s
  exact ⟨csrReads_of_csrOf csrOf_cmdNumber s,
    listed .cmdNop 0x00 rfl, listed .cmdConnReset 0x01 rfl, listed .cmdRxCtrReset 0x02 rfl,
    listed .cmdTxCtrReset 0x03 rfl, listed .cmdBlkEnc 0x10 rfl, listed .cmdBlkDec 0x11 rfl,
    listed .cmdPack18 0x12 rfl, listed .cmdUnpack18 0x13 rfl,
    fun h => csrWrites_cmd_of_commandOf_none (commandOf_reserved h) s⟩

end Sys2Proof.Machine

/-!
A byte in header position that is no type byte (30_encoding.md R112, 60_exceptions.md R322): the check each port makes of
it, and the fault entry that follows.
-/

namespace Sys2Proof.Machine

/-! ### A fault of a byte or of a submitted frame -/

/-- A path that waits for a type byte takes the next byte on RXB (R181): it holds no complete frame. -/
theorem rxbReady_of_rxWaiting {s : State} (h : RxWaiting s) : s.rxbReady = true := by
  obtain ⟨hen, hfault, hopen, hempty⟩ := h
  have hstate : s.rxState ≠ .emit := by simp [State.rxState, rxStateOf, hempty]
  exact rxbReady_iff.mpr ⟨hen, hfault, hopen, hstate⟩

/-- RX.BYTE of a byte that the framer's checks reject is fault entry on the RX path. -/
theorem exec_rxByte_of_acceptByte_error {s : State} {b : Byte} {x : Raised} (hready : s.rxbReady = true)
    (h : acceptByte Config.rxbufCap s.rxbuf b = .error x) : exec (.rxByte b) s = .next (s.faulted .rx x) := by
  have harm : exec (.rxByte b) s = execRxByte b s := rfl
  rw [harm, execRxByte, if_pos hready, rxAccept, h]

/-- TX.FRAME of a frame whose enciphering raises is fault entry on the TX path. -/
theorem exec_txFrame_of_encryptFrame_error {s : State} {f : List Byte} {x : Raised} (hready : s.txfReady = true)
    (h : encryptFrame s.variant s.txk s.txCtr f = .error x) : exec (.txFrame f) s = .next (s.faulted .tx x) := by
  have harm : exec (.txFrame f) s = execTxFrame f s := rfl
  rw [harm, execTxFrame, if_pos hready, h]

/-- A frame that R211 rejects is enciphered to that fault, whatever the keys and the counter are. -/
theorem encryptFrame_of_validateTx_error {f : List Byte} {x : Raised} (h : validateTx f = .error x) (v : Variant)
    (bank : KeyBank) (ctr : Byte) : encryptFrame v bank ctr f = .error x := by
  rw [encryptFrame, h]

/-! ### An unrecognized type byte -/

/-- The bytes that are not recognized (R90). -/
theorem isRecognized_eq_false_iff {t : Byte} :
    isRecognized t = false ↔ t ≠ 0xC1 ∧ t ≠ 0xC2 ∧ t ≠ 0xC3 ∧ t ≠ 0xC4 := by
  simp [isRecognized, and_assoc]

/-- On RXB the type byte is checked in header position, where RXBUF is empty (R112). -/
theorem acceptByte_nil_of_unrecognized {t : Byte} (h : isRecognized t = false) (cap : Nat) :
    acceptByte cap [] t = .error ⟨.invalidPacketHeader, t.setWidth 32, 0⟩ := by
  simp [acceptByte, h]

/-- On TXF the type byte is checked first of all, whatever follows it (R112, R211). -/
theorem validateTx_cons_of_unrecognized {t : Byte} (h : isRecognized t = false) (rest : List Byte) :
    validateTx (t :: rest) = .error ⟨.invalidPacketHeader, t.setWidth 32, 0⟩ := by
  simp [validateTx, h]

/-- Settles O17: on each port the check of the type byte raises InvalidPacketHeader, and fault entry from the waiting
state is the state written out. -/
theorem illegalTypeByte : Obligations.IllegalTypeByte := by
  intro s t rest h1 h2 h3 h4
  have hrec : isRecognized t = false := isRecognized_eq_false_iff.mpr ⟨h1, h2, h3, h4⟩
  constructor
  · intro hrx
    have ⟨_, _, _, hempty⟩ := hrx
    have hraise : acceptByte Config.rxbufCap s.rxbuf t = .error ⟨.invalidPacketHeader, t.setWidth 32, 0⟩ := by
      rw [hempty, acceptByte_nil_of_unrecognized hrec]
    rw [exec_rxByte_of_acceptByte_error (rxbReady_of_rxWaiting hrx) hraise, faulted_rx_eq]
    rfl
  · intro htx
    have hraise := encryptFrame_of_validateTx_error (validateTx_cons_of_unrecognized hrec rest) s.variant s.txk s.txCtr
    rw [exec_txFrame_of_encryptFrame_error (txfReady_iff.mpr htx) hraise, faulted_tx_eq]
    rfl

end Sys2Proof.Machine

/-!
Bit packing (40_bitpack.md): one rule per operation on a byte buffer read as a bit stream (00_scope.md R11). PACK18 and
UNPACK18, their byte-level form and `packAll` are then compared bit by bit.
-/

namespace Sys2Proof.Machine

/-! ### A byte buffer as a bit stream -/

/-- Where stream position `pos` stands (R11). -/
theorem streamBit_eq (bs : List Byte) (pos : Nat) :
    streamBit bs pos = (bs.getD (pos / 8) 0).getLsbD (7 - pos % 8) := rfl

/-- The bits of a byte, from the most significant on, stand at eight successive stream positions. -/
theorem streamBit_byte (bs : List Byte) (k : Nat) {t : Nat} (ht : t < 8) :
    streamBit bs (8 * k + (7 - t)) = (bs.getD k 0).getLsbD t := by
  rw [streamBit_eq, show (8 * k + (7 - t)) / 8 = k by omega, show 7 - (8 * k + (7 - t)) % 8 = t by omega]

/-- Bytes are equal when their eight stream bits are. -/
theorem getD_eq_of_streamBit_eq {bs cs : List Byte} {k : Nat}
    (h : ∀ pos, pos / 8 = k → streamBit bs pos = streamBit cs pos) : bs.getD k 0 = cs.getD k 0 := by
  refine BitVec.eq_of_getLsbD_eq fun t ht => ?_
  rw [← streamBit_byte bs k ht, ← streamBit_byte cs k ht]
  exact h _ (by omega)

/-- Buffers of one length are equal when their streams are. -/
theorem eq_of_streamBit_eq {bs cs : List Byte} (hlen : bs.length = cs.length)
    (h : ∀ pos, streamBit bs pos = streamBit cs pos) : bs = cs := by
  refine List.ext_getElem hlen fun k hb hc => ?_
  have hbyte : bs.getD k 0 = cs.getD k 0 := getD_eq_of_streamBit_eq fun pos _ => h pos
  rwa [List.getD_eq_getElem _ _ hb, List.getD_eq_getElem _ _ hc] at hbyte

/-- Changing byte `k` changes the stream at the positions of that byte only. -/
theorem streamBit_modify {bs : List Byte} {k : Nat} (hk : k < bs.length) (f : Byte → Byte) (pos : Nat) :
    streamBit (bs.modify k f) pos =
      if pos / 8 = k then (f (bs.getD k 0)).getLsbD (7 - pos % 8) else streamBit bs pos := by
  simp only [streamBit_eq, List.getD_eq_getElem?_getD, List.getElem?_modify]
  by_cases h : pos / 8 = k
  · simp [h, List.getElem?_eq_getElem hk]
  · simp [h, Ne.symm h]

theorem getD_modify_of_ne (bs : List Byte) {j k : Nat} (hne : k ≠ j) (f : Byte → Byte) :
    (bs.modify k f).getD j 0 = bs.getD j 0 := by
  rw [List.getD_eq_getElem?_getD, List.getD_eq_getElem?_getD, List.getElem?_modify_ne _ _ hne]

theorem setBit_true (x : Byte) (k : Nat) : setBit x k true = x ||| BitVec.twoPow 8 k := by
  rw [BitVec.twoPow_eq]; rfl

theorem setBit_false (x : Byte) (k : Nat) : setBit x k false = x &&& ~~~BitVec.twoPow 8 k := by
  rw [BitVec.twoPow_eq]; rfl

/-- `setBit` replaces one bit of a byte. -/
theorem getLsbD_setBit (x : Byte) {k t : Nat} (ht : t < 8) (b : Bool) :
    (setBit x k b).getLsbD t = if t = k then b else x.getLsbD t := by
  cases b with
  | false =>
    rw [setBit_false, BitVec.getLsbD_and, BitVec.getLsbD_not, BitVec.getLsbD_twoPow]
    by_cases h : t = k
    · simp [← h, ht]
    · simp [h, Ne.symm h, ht]
  | true =>
    rw [setBit_true, BitVec.getLsbD_or, BitVec.getLsbD_twoPow]
    by_cases h : t = k
    · simp [← h, ht]
    · simp [h, Ne.symm h]

/-- Replacing one stream bit leaves every other stream bit. -/
theorem streamBit_setStreamBit {bs : List Byte} {q : Nat} (hq : q < 8 * bs.length) (b : Bool) (pos : Nat) :
    streamBit (setStreamBit bs q b) pos = if pos = q then b else streamBit bs pos := by
  rw [setStreamBit, streamBit_modify (by omega), getLsbD_setBit _ (by omega)]
  by_cases hbyte : pos / 8 = q / 8
  · have hiff : 7 - pos % 8 = 7 - q % 8 ↔ pos = q := by omega
    simp only [hbyte, if_true, hiff, streamBit_eq]
  · have hne : pos ≠ q := by rintro rfl; exact hbyte rfl
    simp only [hbyte, hne, if_false]

/-- Replacing `n` stream bits from position `start` on, one after the other. -/
theorem streamBit_foldl_setStreamBit {bs : List Byte} {start n : Nat} (hfit : start + n ≤ 8 * bs.length)
    (bit : Nat → Bool) (pos : Nat) :
    streamBit ((List.range n).foldl (fun b k => setStreamBit b (start + k) (bit k)) bs) pos =
      if start ≤ pos ∧ pos < start + n then bit (pos - start) else streamBit bs pos := by
  induction n with
  | zero => simp
  | succ n ih =>
    have hlen : ((List.range n).foldl (fun b k => setStreamBit b (start + k) (bit k)) bs).length = bs.length :=
      List.foldlRecOn (motive := fun c => c.length = bs.length) _ _ rfl
        fun c hc k _ => (setStreamBit_length c _ _).trans hc
    rw [List.range_succ, List.foldl_append, List.foldl_cons, List.foldl_nil,
      streamBit_setStreamBit (by omega), ih (by omega)]
    by_cases hlast : pos = start + n
    · simp [hlast]
    · have hiff : (start ≤ pos ∧ pos < start + (n + 1)) ↔ (start ≤ pos ∧ pos < start + n) := by omega
      simp only [hlast, if_false, hiff]

/-! ### Fields and the permutation of their bits -/

/-- The three bytes of field `i` hold all its 18 bits (R131). -/
theorem field_fits {i len : Nat} (h : 18 * i / 8 + 3 ≤ len) : 18 * i + 18 ≤ 8 * len := by omega

/-- Every bit of a field is `valueBit k` of some position `k`: the table of R98 is a permutation. -/
theorem exists_valueBit_eq {j : Nat} (hj : j < 18) : ∃ k < 18, valueBit k = j := by
  interval_cases j <;> decide

/-- Fields are equal when their bits are, taken in the order in which they stand in the stream. -/
theorem field_eq_of_valueBit {f g : Field} (h : ∀ k < 18, f.getLsbD (valueBit k) = g.getLsbD (valueBit k)) :
    f = g := by
  refine BitVec.eq_of_getLsbD_eq fun j hj => ?_
  obtain ⟨k, hk, rfl⟩ := exists_valueBit_eq hj
  exact h k hk

/-- Fields are equal when their bits are, from the most significant on. -/
theorem field_eq_of_msbs {p q : Field} (h : ∀ k < 18, p.getLsbD (17 - k) = q.getLsbD (17 - k)) : p = q := by
  refine BitVec.eq_of_getLsbD_eq fun j hj => ?_
  have hbit := h (17 - j) (by omega)
  rwa [show 17 - (17 - j) = j by omega] at hbit

/-- The permutation names a bit of the field. -/
theorem valueBit_lt {k : Nat} (hk : k < 18) : valueBit k < 18 := by
  unfold valueBit
  split_ifs <;> omega

/-- Bits 17:0 of a value are those of its field. -/
theorem getLsbD_setWidth_valueBit (v : Word) {k : Nat} (hk : k < 18) :
    (v.setWidth 18).getLsbD (valueBit k) = v.getLsbD (valueBit k) := by
  simp [valueBit_lt hk]

/-! ### PACK18 and UNPACK18 bit by bit -/

/-- PACK18 replaces the 18 stream bits of field `i` and no other (R136). -/
theorem streamBit_pack18 {bs : List Byte} {i : Nat} (hfit : 18 * i + 18 ≤ 8 * bs.length) (v : Word) (pos : Nat) :
    streamBit (pack18 bs i v) pos =
      if 18 * i ≤ pos ∧ pos < 18 * i + 18 then (swap18 (v.setWidth 18)).getLsbD (17 - (pos - 18 * i))
      else streamBit bs pos :=
  streamBit_foldl_setStreamBit hfit (fun k => (swap18 (v.setWidth 18)).getLsbD (17 - k)) pos

theorem streamBit_pack18_of_outside {bs : List Byte} {i : Nat} (hfit : 18 * i + 18 ≤ 8 * bs.length) (v : Word)
    {pos : Nat} (hpos : pos < 18 * i ∨ 18 * i + 18 ≤ pos) : streamBit (pack18 bs i v) pos = streamBit bs pos := by
  rw [streamBit_pack18 hfit, if_neg (by omega)]

/-- Position `k` of the packed field holds bit `valueBit k` of the value (R98, R136). -/
theorem streamBit_pack18_field {bs : List Byte} {i : Nat} (hfit : 18 * i + 18 ≤ 8 * bs.length) (v : Word)
    {k : Nat} (hk : k < 18) : streamBit (pack18 bs i v) (18 * i + k) = v.getLsbD (valueBit k) := by
  rw [streamBit_pack18 hfit, if_pos (by omega), Nat.add_sub_cancel_left, swap18_getLsbD _ k hk,
    getLsbD_setWidth_valueBit v hk]

/-- Shifting one bit into a field from below. -/
theorem getLsbD_shiftIn (p : Field) (b : Bool) {t : Nat} (ht : t < 18) :
    ((p <<< 1) ||| (BitVec.ofBool b).setWidth 18).getLsbD t = if t = 0 then b else p.getLsbD (t - 1) := by
  rw [BitVec.getLsbD_or, BitVec.getLsbD_shiftLeft, BitVec.getLsbD_setWidth, BitVec.getLsbD_ofBool]
  cases t <;> simp [ht]

/-- A field shifted in bit by bit, most significant first. -/
theorem getLsbD_foldl_shiftIn (bit : Nat → Bool) {n k : Nat} (hn : n ≤ 18) (hk : k < n) :
    ((List.range n).foldl (fun (p : Field) k => (p <<< 1) ||| (BitVec.ofBool (bit k)).setWidth 18) 0).getLsbD
      (n - 1 - k) = bit k := by
  induction n with
  | zero => omega
  | succ n ih =>
    rw [List.range_succ, List.foldl_append, List.foldl_cons, List.foldl_nil, getLsbD_shiftIn _ _ (by omega)]
    rcases Nat.lt_succ_iff_lt_or_eq.mp hk with hlt | rfl
    · rw [if_neg (by omega), show n + 1 - 1 - k - 1 = n - 1 - k by omega, ih (by omega) hlt]
    · rw [if_pos (by omega)]

/-- The 18 stream bits of field `i`, as UNPACK18 takes them out before `unswap18` (R137). -/
def streamField (bs : List Byte) (i : Nat) : Field :=
  (List.range 18).foldl (fun p k => (p <<< 1) ||| (BitVec.ofBool (streamBit bs (bitIndex i + k))).setWidth 18) 0

theorem unpack18_eq (bs : List Byte) (i : Nat) : unpack18 bs i = unswap18 (streamField bs i) := rfl

theorem getLsbD_streamField (bs : List Byte) (i : Nat) {k : Nat} (hk : k < 18) :
    (streamField bs i).getLsbD (17 - k) = streamBit bs (18 * i + k) :=
  getLsbD_foldl_shiftIn (fun k => streamBit bs (bitIndex i + k)) le_rfl hk

/-- Bit `valueBit k` of an unpacked field is the bit at position `k` of the field (R98, R137). -/
theorem getLsbD_unpack18 (bs : List Byte) (i : Nat) {k : Nat} (hk : k < 18) :
    (unpack18 bs i).getLsbD (valueBit k) = streamBit bs (18 * i + k) := by
  rw [unpack18_eq, unswap18_getLsbD _ k hk, getLsbD_streamField bs i hk]

/-- What UNPACK18 answers depends on the 18 bits of the field only. -/
theorem unpack18_congr {bs cs : List Byte} {i : Nat}
    (h : ∀ k < 18, streamBit bs (18 * i + k) = streamBit cs (18 * i + k)) : unpack18 bs i = unpack18 cs i :=
  field_eq_of_valueBit fun k hk => by rw [getLsbD_unpack18 bs i hk, getLsbD_unpack18 cs i hk, h k hk]

/-! ### The laws of packing (R139) -/

/-- Unpacking a packed slot gives the low 18 bits of the value. -/
theorem unpack18_pack18_same {bs : List Byte} {i : Nat} (hfit : 18 * i + 18 ≤ 8 * bs.length) (v : Word) :
    unpack18 (pack18 bs i v) i = v.setWidth 18 :=
  field_eq_of_valueBit fun k hk => by
    rw [getLsbD_unpack18 _ i hk, streamBit_pack18_field hfit v hk, getLsbD_setWidth_valueBit v hk]

/-- Packing one slot does not disturb another. -/
theorem unpack18_pack18_of_ne {bs : List Byte} {i j : Nat} (hfit : 18 * i + 18 ≤ 8 * bs.length) (v : Word)
    (hne : j ≠ i) : unpack18 (pack18 bs i v) j = unpack18 bs j :=
  unpack18_congr fun _ _ => streamBit_pack18_of_outside hfit v (by omega)

/-- Two slots can be packed in either order. -/
theorem pack18_pack18_comm {bs : List Byte} {i j : Nat} (hi : 18 * i + 18 ≤ 8 * bs.length)
    (hj : 18 * j + 18 ≤ 8 * bs.length) (hne : j ≠ i) (v u : Word) :
    pack18 (pack18 bs i v) j u = pack18 (pack18 bs j u) i v := by
  refine eq_of_streamBit_eq (by simp) fun pos => ?_
  rw [streamBit_pack18 (by simpa using hj), streamBit_pack18 hi, streamBit_pack18 (by simpa using hi),
    streamBit_pack18 hj]
  by_cases hini : 18 * i ≤ pos ∧ pos < 18 * i + 18
  · rw [if_neg (by omega), if_pos hini, if_pos hini]
  · rw [if_neg hini, if_neg hini]

/-- Packing what was unpacked changes nothing. -/
theorem pack18_unpack18_same {bs : List Byte} {i : Nat} (hfit : 18 * i + 18 ≤ 8 * bs.length) :
    pack18 bs i ((unpack18 bs i).setWidth 32) = bs := by
  refine eq_of_streamBit_eq (by simp) fun pos => ?_
  by_cases hpos : 18 * i ≤ pos ∧ pos < 18 * i + 18
  · obtain ⟨k, rfl⟩ := Nat.exists_eq_add_of_le hpos.1
    have hk : k < 18 := by omega
    rw [streamBit_pack18_field hfit _ hk, BitVec.getLsbD_setWidth, getLsbD_unpack18 bs i hk]
    simp [show valueBit k < 32 from (valueBit_lt hk).trans (by decide)]
  · exact streamBit_pack18_of_outside hfit _ (by omega)

/-- Bytes outside the field's three are unchanged. -/
theorem getD_pack18_of_outside {bs : List Byte} {i k : Nat} (hfit : 18 * i + 18 ≤ 8 * bs.length) (v : Word)
    (hk : k < 18 * i / 8 ∨ 18 * i / 8 + 2 < k) : (pack18 bs i v).getD k 0 = bs.getD k 0 :=
  getD_eq_of_streamBit_eq fun _ _ => streamBit_pack18_of_outside hfit v (by omega)

/-! ### The byte-level form (R138) -/

/-- Field `i` starts at bit `bitOffset i` of byte `byteOffset i`. -/
theorem field_start (i : Nat) : 18 * i = 8 * byteOffset i + bitOffset i := by
  unfold byteOffset bitOffset bitIndex
  omega

/-- A field starts at bit 6 of its first byte at the latest: 18 is even. -/
theorem bitOffset_le (i : Nat) : bitOffset i ≤ 6 := by
  unfold bitOffset bitIndex
  omega

/-- The bits of the byte of ones from which both masks are shifted. -/
theorem testBit_ones (t : Nat) : Nat.testBit 255 t = decide (t < 8) := Nat.testBit_two_pow_sub_one 8 t

/-- The first byte's mask holds the bits from `bitOffset` on (R133). -/
theorem getLsbD_firstMask (i : Nat) {t : Nat} (ht : t < 8) :
    (firstMask i).getLsbD t = decide (t + bitOffset i < 8) := by
  rw [firstMask, BitVec.natCast_eq_ofNat, BitVec.getLsbD_ofNat, Nat.testBit_shiftRight, testBit_ones, Nat.add_comm]
  simp [ht]

/-- The third byte's mask holds its first `bitOffset + 2` bits (R134). -/
theorem getLsbD_remainderMask (i : Nat) {t : Nat} (ht : t < 8) :
    (remainderMask i).getLsbD t = decide (6 - bitOffset i ≤ t) := by
  have hshift : t - (6 - bitOffset i) < 8 := by omega
  rw [remainderMask, BitVec.natCast_eq_ofNat, BitVec.getLsbD_ofNat, Nat.testBit_shiftLeft, testBit_ones]
  simp [ht, hshift]

/-- The first byte of R138: from bit `bitOffset` on, the field's most significant bits. -/
theorem getLsbD_firstByte (x : Byte) (p : Field) (i : Nat) {r : Nat} (hr : r < 8) :
    ((x &&& ~~~(firstMask i)) ||| ((p.setWidth 32 : Word) >>> (10 + bitOffset i)).setWidth 8).getLsbD (7 - r) =
      if bitOffset i ≤ r then p.getLsbD (17 + bitOffset i - r) else x.getLsbD (7 - r) := by
  have ht : 7 - r < 8 := by omega
  have hoff := bitOffset_le i
  simp only [BitVec.getLsbD_or, BitVec.getLsbD_and, BitVec.getLsbD_not, BitVec.getLsbD_setWidth,
    BitVec.getLsbD_ushiftRight, getLsbD_firstMask i ht, ht]
  by_cases hin : bitOffset i ≤ r
  · have hmask : 7 - r + bitOffset i < 8 := by omega
    have hbit : 10 + bitOffset i + (7 - r) = 17 + bitOffset i - r := by omega
    have hwidth : 17 + bitOffset i - r < 32 := by omega
    simp [hin, hmask, hwidth, hbit]
  · have hmask : ¬ 7 - r + bitOffset i < 8 := by omega
    have hzero : p.getLsbD (10 + bitOffset i + (7 - r)) = false := BitVec.getLsbD_of_ge _ _ (by omega)
    simp [hin, hmask, hzero]

/-- The second byte of R138 lies inside the field. -/
theorem getLsbD_secondByte (p : Field) (i : Nat) {r : Nat} (hr : r < 8) :
    (((p.setWidth 32 : Word) >>> (2 + bitOffset i)).setWidth 8).getLsbD (7 - r) = p.getLsbD (9 + bitOffset i - r) := by
  have ht : 7 - r < 8 := by omega
  have hoff := bitOffset_le i
  have hbit : 2 + bitOffset i + (7 - r) = 9 + bitOffset i - r := by omega
  have hwidth : 9 + bitOffset i - r < 32 := by omega
  simp only [BitVec.getLsbD_setWidth, BitVec.getLsbD_ushiftRight, ht, hwidth, hbit, decide_true, Bool.true_and]

/-- The third byte of R138: in its first `bitOffset + 2` bits, the field's least significant bits. -/
theorem getLsbD_thirdByte (x : Byte) (p : Field) (i : Nat) {r : Nat} (hr : r < 8) :
    ((x &&& ~~~(remainderMask i)) ||| ((p.setWidth 32 : Word) <<< (6 - bitOffset i)).setWidth 8).getLsbD (7 - r) =
      if r < bitOffset i + 2 then p.getLsbD (1 + bitOffset i - r) else x.getLsbD (7 - r) := by
  have ht : 7 - r < 8 := by omega
  have hoff := bitOffset_le i
  simp only [BitVec.getLsbD_or, BitVec.getLsbD_and, BitVec.getLsbD_not, BitVec.getLsbD_setWidth,
    BitVec.getLsbD_shiftLeft, getLsbD_remainderMask i ht, ht]
  by_cases hin : r < bitOffset i + 2
  · have hmask : 6 - bitOffset i ≤ 7 - r := by omega
    have hbit : 7 - r - (6 - bitOffset i) = 1 + bitOffset i - r := by omega
    have hwidth : 7 - r < 32 ∧ 1 + bitOffset i - r < 32 := by omega
    simp only [hin, hmask, hbit, hwidth, not_lt.mpr hmask]
    simp
  · have hmask : 7 - r < 6 - bitOffset i := by omega
    simp only [hin, hmask, not_le.mpr hmask]
    simp

/-- The byte-level PACK18 replaces the same stream bits as PACK18: position `pos` is in one of the field's three bytes,
or in none. -/
theorem streamBit_pack18Bytes {bs : List Byte} {i : Nat} (hlen : byteOffset i + 3 ≤ bs.length) (v : Word)
    (pos : Nat) : streamBit (pack18Bytes bs i v) pos =
      if 18 * i ≤ pos ∧ pos < 18 * i + 18 then (swap18 (v.setWidth 18)).getLsbD (17 - (pos - 18 * i))
      else streamBit bs pos := by
  have hstart := field_start i
  have hoff := bitOffset_le i
  have hr : pos % 8 < 8 := by omega
  unfold pack18Bytes
  generalize swap18 (v.setWidth 18) = p
  rw [streamBit_modify (by simp; omega), streamBit_modify (by simp; omega), streamBit_modify (by omega),
    getD_modify_of_ne _ (by omega), getD_modify_of_ne _ (by omega), getLsbD_firstByte _ p i hr,
    getLsbD_secondByte p i hr, getLsbD_thirdByte _ p i hr]
  by_cases first : pos / 8 = byteOffset i
  · rw [if_neg (by omega), if_neg (by omega), if_pos first, ← first, ← streamBit_eq]
    exact if_ctx_congr (by omega) (fun _ => congrArg p.getLsbD (by omega)) fun _ => rfl
  by_cases second : pos / 8 = byteOffset i + 1
  · rw [if_neg (by omega), if_pos second, if_pos (by omega)]
    exact congrArg p.getLsbD (by omega)
  by_cases third : pos / 8 = byteOffset i + 2
  · rw [if_pos third, ← third, ← streamBit_eq]
    exact if_ctx_congr (by omega) (fun _ => congrArg p.getLsbD (by omega)) fun _ => rfl
  · rw [if_neg third, if_neg second, if_neg first, if_neg (by omega)]

/-- The byte-level PACK18 is PACK18. -/
theorem pack18Bytes_eq {bs : List Byte} {i : Nat} (hlen : byteOffset i + 3 ≤ bs.length) (v : Word) :
    pack18Bytes bs i v = pack18 bs i v :=
  eq_of_streamBit_eq (by simp [pack18Bytes]) fun pos => by
    rw [streamBit_pack18Bytes hlen, streamBit_pack18 (field_fits hlen)]

/-- The field as the byte-level UNPACK18 puts it together from three bytes, before `unswap18` (R138). -/
def threeByteField (x y z : Byte) (i : Nat) : Field :=
  (((x &&& firstMask i).setWidth 32 <<< (10 + bitOffset i)) ||| ((y.setWidth 32 : Word) <<< (2 + bitOffset i)) |||
    ((z &&& remainderMask i).setWidth 32 >>> (6 - bitOffset i))).setWidth 18

theorem unpack18Bytes_eq_unswap18 (bs : List Byte) (i : Nat) :
    unpack18Bytes bs i = unswap18 (threeByteField (bs.getD (byteOffset i) 0) (bs.getD (byteOffset i + 1) 0)
      (bs.getD (byteOffset i + 2) 0) i) := rfl

/-- The first byte's share of the field: the mask takes out only bits that the shift moves past bit 17. -/
theorem getLsbD_firstShare (x : Byte) (i : Nat) {t : Nat} (ht : t < 18) :
    ((x &&& firstMask i).setWidth 32 <<< (10 + bitOffset i) : Word).getLsbD t =
      (decide (10 + bitOffset i ≤ t) && x.getLsbD (t - (10 + bitOffset i))) := by
  rw [BitVec.getLsbD_shiftLeft, BitVec.getLsbD_setWidth, BitVec.getLsbD_and, getLsbD_firstMask i (by omega)]
  by_cases hin : 10 + bitOffset i ≤ t
  · have hmask : t - (10 + bitOffset i) + bitOffset i < 8 := by omega
    have hwidth : t < 32 ∧ t - (10 + bitOffset i) < 32 := by omega
    simp [hin, hmask, hwidth]
  · simp [hin]

/-- The second byte's share of the field. -/
theorem getLsbD_secondShare (y : Byte) (i : Nat) {t : Nat} (ht : t < 18) :
    ((y.setWidth 32 : Word) <<< (2 + bitOffset i)).getLsbD t =
      (decide (2 + bitOffset i ≤ t) && y.getLsbD (t - (2 + bitOffset i))) := by
  have hwidth : t < 32 ∧ t - (2 + bitOffset i) < 32 := by omega
  simp [hwidth, ← decide_not]

/-- The third byte's share of the field: the mask takes out only bits that the shift drops. -/
theorem getLsbD_thirdShare (z : Byte) (i t : Nat) :
    ((z &&& remainderMask i).setWidth 32 >>> (6 - bitOffset i) : Word).getLsbD t = z.getLsbD (6 - bitOffset i + t) := by
  rw [BitVec.getLsbD_ushiftRight, BitVec.getLsbD_setWidth, BitVec.getLsbD_and]
  by_cases hin : 6 - bitOffset i + t < 8
  · have hwidth : 6 - bitOffset i + t < 32 := by omega
    simp [getLsbD_remainderMask i hin, hwidth]
  · simp [BitVec.getLsbD_of_ge z _ (not_lt.mp hin)]

/-- Position `k` of the field is in the first, the second or the third byte. -/
theorem getLsbD_threeByteField (x y z : Byte) (i : Nat) {k : Nat} (hk : k < 18) :
    (threeByteField x y z i).getLsbD (17 - k) =
      if bitOffset i + k < 8 then x.getLsbD (7 - (bitOffset i + k))
      else if bitOffset i + k < 16 then y.getLsbD (15 - (bitOffset i + k))
      else z.getLsbD (23 - (bitOffset i + k)) := by
  have hoff := bitOffset_le i
  have ht : 17 - k < 18 := by omega
  rw [threeByteField, BitVec.getLsbD_setWidth, BitVec.getLsbD_or, BitVec.getLsbD_or, getLsbD_firstShare x i ht,
    getLsbD_secondShare y i ht, getLsbD_thirdShare z i, decide_eq_true ht, Bool.true_and]
  have hx : bitOffset i + k < 8 ↔ 10 + bitOffset i ≤ 17 - k := by omega
  have hy : bitOffset i + k < 16 ↔ 2 + bitOffset i ≤ 17 - k := by omega
  have hxbit : 17 - k - (10 + bitOffset i) = 7 - (bitOffset i + k) := by omega
  have hybit : 17 - k - (2 + bitOffset i) = 15 - (bitOffset i + k) := by omega
  have hzbit : 6 - bitOffset i + (17 - k) = 23 - (bitOffset i + k) := by omega
  rw [hxbit, hybit, hzbit]
  split_ifs with first second
  · have hynone : y.getLsbD (15 - (bitOffset i + k)) = false := BitVec.getLsbD_of_ge _ _ (by omega)
    have hznone : z.getLsbD (23 - (bitOffset i + k)) = false := BitVec.getLsbD_of_ge _ _ (by omega)
    simp [← hx, first, hynone, hznone]
  · have hznone : z.getLsbD (23 - (bitOffset i + k)) = false := BitVec.getLsbD_of_ge _ _ (by omega)
    simp [← hx, first, ← hy, second, hznone]
  · simp [← hx, first, ← hy, second]

/-- The byte-level UNPACK18 is UNPACK18. -/
theorem unpack18Bytes_eq (bs : List Byte) (i : Nat) : unpack18Bytes bs i = unpack18 bs i := by
  have hstart := field_start i
  have hoff := bitOffset_le i
  rw [unpack18Bytes_eq_unswap18, unpack18_eq]
  refine congrArg unswap18 (field_eq_of_msbs fun k hk => ?_)
  rw [getLsbD_threeByteField _ _ _ i hk, getLsbD_streamField bs i hk, streamBit_eq]
  split_ifs with first second
  · rw [show (18 * i + k) / 8 = byteOffset i by omega]
    exact congrArg _ (by omega)
  · rw [show (18 * i + k) / 8 = byteOffset i + 1 by omega]
    exact congrArg _ (by omega)
  · rw [show (18 * i + k) / 8 = byteOffset i + 2 by omega]
    exact congrArg _ (by omega)

/-! ### All slots (R140) -/

/-- Packing into successive slots: each of them holds its value, and no other slot is disturbed. -/
theorem unpack18_packFrom {i : Nat} {vs : List Word} {bs : List Byte} (hfit : 18 * (i + vs.length) ≤ 8 * bs.length)
    (j : Nat) : unpack18 (packFrom i vs bs) j =
      if i ≤ j ∧ j < i + vs.length then (vs.getD (j - i) 0).setWidth 18 else unpack18 bs j := by
  induction vs generalizing i bs with
  | nil => simp [packFrom]
  | cons v vs ih =>
    rw [List.length_cons] at hfit ⊢
    rw [packFrom, ih (by rw [pack18_length]; omega)]
    by_cases hj : j = i
    · rw [hj, if_neg (by omega), if_pos (by omega), Nat.sub_self, List.getD_cons_zero,
        unpack18_pack18_same (by omega)]
    · have hrest : i ≤ j ∧ j < i + (vs.length + 1) ↔ i + 1 ≤ j ∧ j < i + 1 + vs.length := by omega
      rw [unpack18_pack18_of_ne (by omega) v hj]
      refine if_ctx_congr hrest.symm (fun hin => ?_) fun _ => rfl
      rw [show j - i = j - (i + 1) + 1 by omega, List.getD_cons_succ]

/-- Unpacking all slots of a region that the slots fill exactly gives the low 18 bits of every value. -/
theorem unpackAll_packAll {n : Nat} {r : List Word} (hexact : 8 * (18 * n / 8) = 18 * n) (hlen : r.length = n) :
    unpackAll n (packAll n r) = r.map (fun x => (x.setWidth 18).setWidth 32) := by
  refine List.ext_getElem (by simp [hlen]) fun j hj hj' => ?_
  have hjn : j < n := by simpa using hj
  have hzeros : (zeros (18 * n / 8)).length = 18 * n / 8 := by simp [zeros]
  simp only [unpackAll, packAll, List.getElem_map, List.getElem_range]
  rw [List.take_of_length_le hlen.le, unpack18_packFrom (by omega), if_pos (by omega), Nat.sub_zero,
    List.getD_eq_getElem]

/-! ### The obligations of bit packing -/

/-- PACK18 answers in every state, for a buffer that holds the field (R136). -/
theorem exec_pack18_of_fits {b : List Byte} {i : BitVec 4} (hlen : byteOffset i.toNat + 3 ≤ b.length) (v : Word)
    (s : State) : exec (.pack18 b i v) s = .next { s with resp := .bytes (pack18 b i.toNat v) } := by
  have harm : exec (.pack18 b i v) s = execPack18 b i v s := rfl
  rw [harm, execPack18, if_pos hlen]
  rfl

/-- UNPACK18 answers in every state, for a buffer that holds the field (R137). -/
theorem exec_unpack18_of_fits {b : List Byte} {i : BitVec 4} (hlen : byteOffset i.toNat + 3 ≤ b.length) (s : State) :
    exec (.unpack18 b i) s = .next { s with resp := .field (unpack18 b i.toNat) } := by
  have harm : exec (.unpack18 b i) s = execUnpack18 b i s := rfl
  rw [harm, execUnpack18, if_pos hlen]
  rfl

/-- Settles O50: each answer is the packed buffer or the unpacked field, whose bits the rules above give. -/
theorem packUnpackBits : Obligations.PackUnpackBits := by
  intro s b i v hlen
  have hfit := field_fits hlen
  exact ⟨⟨_, exec_pack18_of_fits hlen v s, pack18_length .., fun pos _ => streamBit_pack18 hfit v pos,
      fun _ hk => streamBit_pack18_field hfit v hk⟩,
    ⟨_, streamField b i.toNat, exec_unpack18_of_fits hlen s, unpack18_eq ..,
      fun _ hk => getLsbD_streamField b i.toNat hk, fun _ hk => getLsbD_unpack18 b i.toNat hk⟩⟩

/-- Settles O52: both forms give every stream bit, and every bit of the field, the same value. -/
theorem byteFormAgrees : Obligations.ByteFormAgrees :=
  fun b i v hlen => ⟨pack18Bytes_eq hlen v, unpack18Bytes_eq b i.toNat⟩

/-- Settles O53: the five laws of R139, for a buffer that holds both fields. -/
theorem packLaws : Obligations.PackLaws := by
  intro b i v hi
  have hfit := field_fits hi
  refine ⟨unpack18_pack18_same hfit v, pack18_unpack18_same hfit, fun k hk => getD_pack18_of_outside hfit v hk, ?_⟩
  intro j u hne hj
  have hslot : j.toNat ≠ i.toNat := fun h => hne (BitVec.eq_of_toNat_eq h)
  exact ⟨unpack18_pack18_of_ne hfit v hslot, pack18_pack18_comm hfit (field_fits hj) hslot v u⟩

/-- Settles O54: 4 and 16 fields fill their region to the last bit. -/
theorem packAllRoundTrip : Obligations.PackAllRoundTrip := by
  intro n r hn hlen
  rcases hn with rfl | rfl
  · exact ⟨unpackAll_packAll rfl hlen, packAll_length ..⟩
  · exact ⟨unpackAll_packAll rfl hlen, packAll_length ..⟩

end Sys2Proof.Machine

/-!
The parts of the block codec (41_block_codec.md): MODMUL and CSUM as arithmetic (R150, R151), the key check over the slots
of a bank (R152), and the product, fold, un-fold and word loops (R153, R154), each slot by slot.
-/

namespace Sys2Proof.Machine

/-! ### MODMUL (R150) -/

theorem ne_zero_of_lt_toNat {m : Word} {n : Nat} (h : n < m.toNat) : m ≠ 0 := by
  rintro rfl
  exact absurd h (Nat.not_lt_zero n)

theorem toNat_pos_of_ne_zero {m : Word} (hm : m ≠ 0) : 0 < m.toNat :=
  Nat.pos_of_ne_zero fun h => hm (BitVec.eq_of_toNat_eq h)

/-- MODMUL is exact: the product of two 32-bit words fits the 64 bits in which it is formed. -/
theorem toNat_modmul (a k : Word) {m : Word} (hm : m ≠ 0) :
    (modmul a k m).toNat = a.toNat * k.toNat % m.toNat := by
  have hpos : 0 < m.toNat := toNat_pos_of_ne_zero hm
  have hprod : a.toNat * k.toNat < 2 ^ 64 := (Nat.mul_lt_mul'' a.isLt k.isLt).trans_le (by decide)
  have hword (x : Word) : x.toNat < 2 ^ 64 := x.isLt.trans (by decide)
  have hrem : a.toNat * k.toNat % m.toNat < 2 ^ 32 := (Nat.mod_lt _ hpos).trans m.isLt
  simp only [modmul, if_neg hm, BitVec.toNat_setWidth, BitVec.toNat_umod, BitVec.toNat_mul]
  rw [Nat.mod_eq_of_lt (hword a), Nat.mod_eq_of_lt (hword k), Nat.mod_eq_of_lt (hword m), Nat.mod_eq_of_lt hprod,
    Nat.mod_eq_of_lt hrem]

theorem toNat_modmul_lt (a k : Word) {m : Word} (hm : m ≠ 0) : (modmul a k m).toNat < m.toNat := by
  rw [toNat_modmul a k hm]
  exact Nat.mod_lt _ (toNat_pos_of_ne_zero hm)

/-- Multipliers that are inverse to each other undo one another on every value below the modulus (R155). -/
theorem modmul_modmul_of_inverse {a k j m : Word} (hinv : k.toNat * j.toNat % m.toNat = 1) (ha : a.toNat < m.toNat) :
    modmul (modmul a k m) j m = a := by
  have hm := ne_zero_of_lt_toNat ha
  refine BitVec.eq_of_toNat_eq ?_
  calc (modmul (modmul a k m) j m).toNat
      = a.toNat * (k.toNat * j.toNat) % m.toNat := by
        rw [toNat_modmul _ _ hm, toNat_modmul _ _ hm, Nat.mod_mul_mod, Nat.mul_assoc]
    _ = a.toNat := by rw [Nat.mul_mod, hinv, Nat.mul_one, Nat.mod_mod, Nat.mod_eq_of_lt ha]

/-! ### CSUM (R151) -/

/-- The XOR-fold of a byte sequence. -/
def xorFold (bs : List Byte) : Byte :=
  bs.foldr (· ^^^ ·) 0

theorem xorFold_append (bs cs : List Byte) : xorFold (bs ++ cs) = xorFold bs ^^^ xorFold cs := by
  induction bs with
  | nil => simp [xorFold]
  | cons b bs ih => exact (congrArg (b ^^^ ·) ih).trans (BitVec.xor_assoc ..).symm

/-- CSUM folds from its seed on; the seed can be taken out, because XOR is associative and commutative. -/
theorem csum_eq (p : List Byte) (n : Nat) : csum p n = 0xF8 ^^^ xorFold (p.take n) := by
  calc csum p n = (p.take n).foldl (· ^^^ ·) (0xF8 ^^^ 0) := rfl
    _ = 0xF8 ^^^ (p.take n).foldl (· ^^^ ·) 0 := List.foldl_assoc
    _ = 0xF8 ^^^ xorFold (p.take n) := congrArg _ List.foldl_eq_foldr

/-- A longer span changes the checksum by the fold of the bytes it adds. -/
theorem csum_eq_xor_of_le (p : List Byte) {m n : Nat} (h : m ≤ n) :
    csum p n = csum p m ^^^ xorFold ((p.drop m).take (n - m)) := by
  obtain ⟨k, rfl⟩ := Nat.exists_eq_add_of_le h
  rw [csum_eq, csum_eq, List.take_add, xorFold_append, Nat.add_sub_cancel_left, BitVec.xor_assoc]

/-- The checksums of two spans differ by the fold of the bytes between their ends, whichever is longer. -/
theorem csum_eq_xor_between (p : List Byte) (m n : Nat) :
    csum p n = csum p m ^^^ xorFold ((p.drop (min m n)).take (max m n - min m n)) := by
  rcases Nat.le_total m n with h | h
  · rw [Nat.min_eq_left h, Nat.max_eq_right h]
    exact csum_eq_xor_of_le p h
  · rw [Nat.min_eq_right h, Nat.max_eq_left h, csum_eq_xor_of_le p h, BitVec.xor_assoc, BitVec.xor_self,
      BitVec.xor_zero]

/-! ### The slots of a bank and the key check (R152) -/

theorem getElem_slotKeys {n : Nat} (mod mul xork : Vector Word 16) (i : Fin 16)
    (h : i.val < (slotKeys n mod mul xork).length) :
    (slotKeys n mod mul xork)[i.val] = ⟨mod[i], mul[i], xork[i]⟩ := by
  simp [slotKeys]

/-- What the slots below `n` hold, for a property of every slot. -/
theorem mem_slotKeys {n : Nat} {mod mul xork : Vector Word 16} {k : SlotKey} (h : k ∈ slotKeys n mod mul xork) :
    ∃ i : Fin 16, i.val < n ∧ k = ⟨mod[i], mul[i], xork[i]⟩ := by
  obtain ⟨i, hi, rfl⟩ := List.mem_iff_getElem.mp h
  have hbound : i < n ∧ i < 16 := by simpa using hi
  exact ⟨⟨i, hbound.2⟩, hbound.1, getElem_slotKeys mod mul xork ⟨i, hbound.2⟩ hi⟩

/-- The key check passes when no slot below `n` has a zero modulus. -/
theorem checkKeys_slotKeys_of_usable {n : Nat} {mod : Vector Word 16} (mul xork : Vector Word 16)
    (h : ∀ i : Fin 16, i.val < n → mod[i] ≠ 0) : checkKeys (slotKeys n mod mul xork) = .ok () := by
  rcases checkKeys_cases (slotKeys n mod mul xork) with ⟨hok, -⟩ | ⟨pre, k, post, heq, hzero, -, -⟩
  · exact hok
  · obtain ⟨i, hi, rfl⟩ := mem_slotKeys (heq ▸ List.mem_append_right pre List.mem_cons_self)
    exact absurd hzero (h i hi)

/-- The search answers the lowest slot with a zero modulus. -/
theorem firstZeroFrom_of_lowest (n : Nat) {keys : List SlotKey} {i : Nat} (hi : i < keys.length)
    (hzero : keys[i].modulus = 0) (hlow : ∀ j (hj : j < i), keys[j].modulus ≠ 0) :
    firstZeroFrom n keys = some (n + i) := by
  induction keys generalizing n i with
  | nil => exact absurd hi (Nat.not_lt_zero _)
  | cons k ks ih =>
    cases i with
    | zero => exact if_pos hzero
    | succ i =>
      have hk : k.modulus ≠ 0 := hlow 0 i.succ_pos
      rw [firstZeroFrom, if_neg hk, ih (n + 1) (Nat.lt_of_succ_lt_succ hi) hzero
        fun j hj => hlow (j + 1) (Nat.succ_lt_succ hj), Nat.add_right_comm, Nat.add_assoc]

/-- The key check reports the lowest slot below `n` with a zero modulus. -/
theorem checkKeys_slotKeys_of_lowest {n : Nat} {mod : Vector Word 16} (mul xork : Vector Word 16) {i : Fin 16}
    (hi : i.val < n) (hzero : mod[i] = 0) (hlow : ∀ j : Fin 16, j < i → mod[j] ≠ 0) :
    checkKeys (slotKeys n mod mul xork) = .error ⟨.invalidKey, BitVec.ofNat 32 i, 0⟩ := by
  have hilen : i.val < (slotKeys n mod mul xork).length := by simp [hi]
  have hfirst : firstZeroFrom 0 (slotKeys n mod mul xork) = some (0 + i.val) := by
    refine firstZeroFrom_of_lowest 0 hilen (by rw [getElem_slotKeys mod mul xork i]; exact hzero) fun j hj => ?_
    rw [getElem_slotKeys mod mul xork ⟨j, hj.trans i.isLt⟩]
    exact hlow _ hj
  rw [checkKeys, hfirst, Nat.zero_add]

/-- What encoding reads of slot `i` (R153). -/
theorem getElem_encKeys (v : Variant) (bank : KeyBank) (i : Fin 16) (h : i.val < (encKeys v bank).length) :
    (encKeys v bank)[i.val] = ⟨bank.mod[i], bank.enc[i], bank.xork[i]⟩ := getElem_slotKeys _ _ _ i h

/-- What decoding reads of slot `i` (R154). -/
theorem getElem_decKeys (v : Variant) (bank : KeyBank) (i : Fin 16) (h : i.val < (decKeys v bank).length) :
    (decKeys v bank)[i.val] = ⟨bank.mod[i], bank.dec[i], bank.xork[i]⟩ := getElem_slotKeys _ _ _ i h

/-! ### The words of a block (R62) -/

@[simp] theorem wordsOf_length : ∀ p : List Byte, (wordsOf p).length = p.length / 2
  | [] => rfl
  | [_] => by simp [wordsOf]
  | _ :: _ :: rest => by
    rw [wordsOf, List.length_cons, wordsOf_length rest, List.length_cons, List.length_cons]
    omega

/-- Word `i` is the little-endian pair of bytes `2i` and `2i + 1`. -/
theorem getElem_wordsOf : ∀ (p : List Byte) (i : Nat) (h : i < (wordsOf p).length),
    (wordsOf p)[i] = p.getD (2 * i + 1) 0 ++ p.getD (2 * i) 0
  | _ :: _ :: _, 0, _ => rfl
  | _ :: _ :: rest, i + 1, h => getElem_wordsOf rest i (Nat.lt_of_succ_lt_succ h)

/-- A block of an even number of bytes is the bytes of its words. -/
theorem bytesOf_wordsOf : ∀ p : List Byte, p.length % 2 = 0 → bytesOf (wordsOf p) = p
  | [], _ => rfl
  | [_], h => absurd h (by simp)
  | b0 :: b1 :: rest, h => by
    have hlow : (le16 b0 b1).extractLsb' 0 8 = b0 := by
      ext j hj
      rw [BitVec.getElem_extractLsb', le16, BitVec.getLsbD_append]
      simp [hj]
    have hhigh : (le16 b0 b1).extractLsb' 8 8 = b1 := by
      ext j hj
      rw [BitVec.getElem_extractLsb', le16, BitVec.getLsbD_append]
      simp [hj]
    have hrest : rest.length % 2 = 0 := by simp only [List.length_cons] at h; omega
    rw [wordsOf, bytesOf, hlow, hhigh, bytesOf_wordsOf rest hrest]

theorem bytesOf_eq_flatMap (ws : List Half) :
    bytesOf ws = ws.flatMap fun w => [w.extractLsb' 0 8, w.extractLsb' 8 8] := by
  induction ws with
  | nil => rfl
  | cons w ws ih => rw [bytesOf, ih]; rfl

/-- A list is the table of its own entries. -/
theorem map_range_getD {α : Type} (l : List α) (d : α) : (List.range l.length).map (l.getD · d) = l := by
  refine List.ext_getElem (by simp) fun i _ h => ?_
  rw [List.getElem_map, List.getElem_range, List.getD_eq_getElem _ _ h]

/-! ### The loops, slot by slot -/

/-- The product of one slot; `prev` is the product of the slot before (R153). -/
def slotProduct (k : SlotKey) (w : Half) (prev : Word) : Word :=
  modmul (k.xork ^^^ (w ^^^ prev.setWidth 16).setWidth 32) k.multiplier k.modulus

/-- The word of one slot; `prev` is the low half of the ring value of the slot before (R154). -/
def slotWord (k : SlotKey) (r prev : Word) : Half :=
  (k.xork ^^^ modmul r k.multiplier k.modulus ^^^ prev).setWidth 16

theorem mulStage_cons (prev : Word) (k : SlotKey) (ks : List SlotKey) (w : Half) (ws : List Half) :
    mulStage prev (k :: ks) (w :: ws) = slotProduct k w prev :: mulStage (slotProduct k w prev) ks ws := rfl

theorem wordStage_cons (prev : Word) (k : SlotKey) (ks : List SlotKey) (r : Word) (rs : List Word) :
    wordStage prev (k :: ks) (r :: rs) = slotWord k r prev :: wordStage (r &&& 0xFFFF) ks rs := rfl

theorem unfoldStage_nil (ks : List SlotKey) : unfoldStage ks [] = [] := by cases ks <;> rfl

theorem unfoldStage_singleton (ks : List SlotKey) (r : Word) : unfoldStage ks [r] = [r] := by
  cases ks with
  | nil => rfl
  | cons k ks => rw [unfoldStage, unfoldStage_nil]

/-- Each ring value but the last takes the already un-folded one after it. -/
theorem unfoldStage_cons (k : SlotKey) (ks : List SlotKey) (r : Word) {rs : List Word} (h : rs ≠ []) :
    unfoldStage (k :: ks) (r :: rs) =
      (r ^^^ k.xork ^^^ ((unfoldStage ks rs).getD 0 0 &&& 0xFFFF)) :: unfoldStage ks rs := by
  rw [unfoldStage]
  cases hrest : unfoldStage ks rs with
  | nil => exact absurd (List.length_eq_zero_iff.mp (by rw [← unfoldStage_length ks rs, hrest]; rfl)) h
  | cons r' rs' => rfl

@[simp] theorem mulStage_length (prev : Word) (ks : List SlotKey) (ws : List Half) :
    (mulStage prev ks ws).length = min ks.length ws.length := by
  induction ks generalizing prev ws with
  | nil => simp [mulStage]
  | cons k ks ih =>
    cases ws with
    | nil => simp [mulStage]
    | cons w ws => simp [mulStage_cons, ih]

@[simp] theorem foldStage_length (ks : List SlotKey) (rs : List Word) : (foldStage ks rs).length = rs.length := by
  induction ks generalizing rs with
  | nil => rfl
  | cons k ks ih =>
    match rs with
    | [] => rfl
    | [_] => rfl
    | r :: r' :: rs => simp [foldStage, ih]

/-- The product loop: slot `i` takes the product of slot `i - 1`. -/
theorem getD_mulStage (prev : Word) {ks : List SlotKey} {ws : List Half} {i : Nat} (hk : i < ks.length)
    (hw : i < ws.length) : (mulStage prev ks ws).getD i 0 =
      slotProduct ks[i] ws[i] (if i = 0 then prev else (mulStage prev ks ws).getD (i - 1) 0) := by
  induction ks generalizing prev ws i with
  | nil => exact absurd hk (Nat.not_lt_zero _)
  | cons k ks ih =>
    cases ws with
    | nil => exact absurd hw (Nat.not_lt_zero _)
    | cons w ws =>
      rw [mulStage_cons]
      cases i with
      | zero => rfl
      | succ i =>
        rw [List.getD_cons_succ, ih _ (Nat.lt_of_succ_lt_succ hk) (Nat.lt_of_succ_lt_succ hw)]
        cases i <;> rfl

/-- The fold: slot `i` takes the product of slot `i + 1`, not yet folded; the last slot is not folded. -/
theorem getD_foldStage {ks : List SlotKey} {rs : List Word} {i : Nat} (hk : i < ks.length) :
    (foldStage ks rs).getD i 0 =
      if i + 1 < rs.length then rs.getD i 0 ^^^ ks[i].xork ^^^ (rs.getD (i + 1) 0 &&& 0xFFFF) else rs.getD i 0 := by
  induction ks generalizing rs i with
  | nil => exact absurd hk (Nat.not_lt_zero _)
  | cons k ks ih =>
    match rs, i with
    | [], _ => rfl
    | [_], _ => simp [foldStage]
    | r :: r' :: rs, 0 => simp [foldStage]
    | r :: r' :: rs, i + 1 =>
      rw [foldStage, List.getD_cons_succ, ih (Nat.lt_of_succ_lt_succ hk)]
      simp

/-- The un-fold: slot `i` takes the value of slot `i + 1`, already un-folded. -/
theorem getD_unfoldStage {ks : List SlotKey} {rs : List Word} {i : Nat} (hk : i < ks.length) :
    (unfoldStage ks rs).getD i 0 =
      if i + 1 < rs.length then rs.getD i 0 ^^^ ks[i].xork ^^^ ((unfoldStage ks rs).getD (i + 1) 0 &&& 0xFFFF)
      else rs.getD i 0 := by
  induction ks generalizing rs i with
  | nil => exact absurd hk (Nat.not_lt_zero _)
  | cons k ks ih =>
    match rs, i with
    | [], _ => rfl
    | [r], _ => simp [unfoldStage_singleton]
    | r :: r' :: rs, 0 => rw [unfoldStage_cons k ks r (List.cons_ne_nil r' rs)]; simp
    | r :: r' :: rs, i + 1 =>
      rw [unfoldStage_cons k ks r (List.cons_ne_nil r' rs), List.getD_cons_succ, ih (Nat.lt_of_succ_lt_succ hk)]
      simp

/-- The word loop: slot `i` takes the low half of the ring value of slot `i - 1`. -/
theorem getD_wordStage (prev : Word) {ks : List SlotKey} {rs : List Word} {i : Nat} (hk : i < ks.length)
    (hr : i < rs.length) : (wordStage prev ks rs).getD i 0 =
      slotWord ks[i] (rs.getD i 0) (if i = 0 then prev else rs.getD (i - 1) 0 &&& 0xFFFF) := by
  induction ks generalizing prev rs i with
  | nil => exact absurd hk (Nat.not_lt_zero _)
  | cons k ks ih =>
    cases rs with
    | nil => exact absurd hr (Nat.not_lt_zero _)
    | cons r rs =>
      rw [wordStage_cons]
      cases i with
      | zero => rfl
      | succ i =>
        rw [List.getD_cons_succ, ih _ (Nat.lt_of_succ_lt_succ hk) (Nat.lt_of_succ_lt_succ hr)]
        cases i <;> rfl

end Sys2Proof.Machine

/-!
BLK.ENC and BLK.DEC as a whole (R153 to R155, R158): what each answers case by case, which bytes of a block the packed
region is, and that decoding undoes encoding slot by slot.
-/

namespace Sys2Proof.Machine

/-! ### The packed region -/

/-- The stream of the first bytes of a buffer. -/
theorem streamBit_take {bs : List Byte} {n pos : Nat} (h : pos < 8 * n) :
    streamBit (bs.take n) pos = streamBit bs pos := by
  simp only [streamBit_eq, List.getD_eq_getElem?_getD, List.getElem?_take, show pos / 8 < n by omega, if_true]

/-- Unpacking all slots reads the packed region only. -/
theorem unpackAll_take {n : Nat} (hexact : 8 * (18 * n / 8) = 18 * n) (bs : List Byte) :
    unpackAll n (bs.take (18 * n / 8)) = unpackAll n bs := by
  refine List.map_congr_left fun i hi => ?_
  have hin : i < n := List.mem_range.mp hi
  exact congrArg _ (unpack18_congr fun k hk => streamBit_take (by omega))

/-- The slots of either variant fill their region to the last bit (R140). -/
theorem Variant.region_exact (v : Variant) : 8 * (18 * v.slotCount / 8) = 18 * v.slotCount := by cases v <;> rfl

theorem getD_unpackAll {n i : Nat} (hi : i < n) (bs : List Byte) :
    (unpackAll n bs).getD i 0 = (unpack18 bs i).setWidth 32 := by
  rw [List.getD_eq_getElem _ _ (by simpa using hi)]
  simp [unpackAll]

/-- The ring registers after the un-fold (R154). -/
def decRing (v : Variant) (bank : KeyBank) (c : List Byte) : List Word :=
  unfoldStage (decKeys v bank) (unpackAll v.slotCount c)

@[simp] theorem decRing_length (v : Variant) (bank : KeyBank) (c : List Byte) :
    (decRing v bank c).length = v.slotCount := by simp [decRing]

theorem decPlain_eq (v : Variant) (bank : KeyBank) (c : List Byte) :
    decPlain v bank c = bytesOf (wordStage 0 (decKeys v bank) (decRing v bank c)) := rfl

/-- The plaintext depends on the bytes before the trailer only. -/
theorem decPlain_congr (v : Variant) (bank : KeyBank) {c c' : List Byte}
    (h : c.take (v.encBlockSize - 2) = c'.take (v.encBlockSize - 2)) : decPlain v bank c = decPlain v bank c' := by
  rw [v.encBlockSize_eq, Nat.add_sub_cancel] at h
  rw [decPlain_eq, decPlain_eq, decRing, decRing, ← unpackAll_take v.region_exact c, h,
    unpackAll_take v.region_exact c']

/-! ### What the block operations answer -/

/-- BLK.ENC with a legal size and usable keys (R153). -/
theorem blkEnc_of_checkKeys_ok {v : Variant} {bank : KeyBank} {u : Byte} (p : List Byte) (hu : u.toNat ≤ v.blockCap)
    (hkeys : checkKeys (encKeys v bank) = .ok ()) : blkEnc v bank p u = .ok (packAll v.slotCount
      (encRing (encKeys v bank) p) ++ [u ^^^ blockSizeXorKey ^^^ csum p u.toNat, csum p u.toNat]) := by
  rw [blkEnc, if_neg (not_lt.mpr hu), hkeys]

/-- BLK.ENC with a legal size and a bad key (R152). -/
theorem blkEnc_of_checkKeys_error {v : Variant} {bank : KeyBank} {u : Byte} {x : Raised} (p : List Byte)
    (hu : u.toNat ≤ v.blockCap) (hkeys : checkKeys (encKeys v bank) = .error x) : blkEnc v bank p u = .error x := by
  rw [blkEnc, if_neg (not_lt.mpr hu), hkeys]

/-- BLK.DEC with a bad key (R152). -/
theorem blkDec_of_checkKeys_error {v : Variant} {bank : KeyBank} {x : Raised} (c : List Byte) (lenient : Bool)
    (hkeys : checkKeys (decKeys v bank) = .error x) : blkDec v bank c lenient = .error x := by
  rw [blkDec, hkeys]

/-- BLK.DEC with usable keys is the trailer checks of the plaintext (R154). -/
theorem blkDec_of_checkKeys_ok {v : Variant} {bank : KeyBank} (c : List Byte) (lenient : Bool)
    (hkeys : checkKeys (decKeys v bank) = .ok ()) : blkDec v bank c lenient = checkTrailer v (decPlain v bank c)
      (c.getD (v.encBlockSize - 2) 0) (c.getD (v.encBlockSize - 1) 0) lenient := by
  rw [blkDec, hkeys]

/-- The two bytes that InvalidBlockChecksum records (R154). -/
theorem setWidth_append_bytes (x y : Byte) :
    (x ++ y).setWidth 32 = (x.setWidth 32 <<< 8) ||| (y.setWidth 32 : Word) := by
  rw [BitVec.append_def]
  ext j hj
  simp

/-- The trailer checks, by the `usedLen` the two bytes give (R154). -/
theorem checkTrailer_eq {v : Variant} {t0 t1 u : Byte} (hu : t0 ^^^ t1 ^^^ 0x3D = u) (p : List Byte) (lenient : Bool) :
    checkTrailer v p t0 t1 lenient =
      if v.blockCap < u.toNat then .error ⟨.invalidBlockSize, u.setWidth 32, 0⟩
      else if csum p u.toNat = t1 then .ok ⟨p, u, false⟩
      else if lenient then .ok ⟨p, u, true⟩
      else .error ⟨.invalidBlockChecksum, ((csum p u.toNat).setWidth 32 <<< 8) ||| t1.setWidth 32, 0⟩ := by
  rw [← setWidth_append_bytes, ← hu]
  rfl

/-! ### The round trip of one block (R155) -/

/-- A slot of an encoding bank and the same slot of a matching decoding bank. -/
structure SlotPair (e d : SlotKey) : Prop where
  modulus_eq : e.modulus = d.modulus
  xork_eq : e.xork = d.xork
  inverse : e.multiplier.toNat * d.multiplier.toNat % e.modulus.toNat = 1
  modulus_gt : 0xFFFF < e.modulus.toNat
  modulus_le : e.modulus.toNat ≤ 2 ^ 18
  xork_le : e.xork.toNat ≤ 0xFFFF

theorem SlotPair.modulus_ne_zero {e d : SlotKey} (h : SlotPair e d) : e.modulus ≠ 0 :=
  ne_zero_of_lt_toNat h.modulus_gt

/-- The banks of a matching pair match slot by slot. -/
theorem slotPairs_of_matchingPair {v : Variant} {e d : KeyBank} (h : MatchingPair v e d) :
    List.Forall₂ SlotPair (encKeys v e) (decKeys v d) := by
  rw [List.forall₂_iff_get]
  refine ⟨by simp, fun i hi hi' => ?_⟩
  have hslots : i < v.slotCount := by simpa using hi
  have hi16 : i < 16 := hslots.trans_le v.slotCount_le
  obtain ⟨hmod, hxor, hinv, hgt, hle, hxle⟩ := h ⟨i, hi16⟩ hslots
  simp only [List.get_eq_getElem]
  rw [getElem_encKeys v e ⟨i, hi16⟩ hi, getElem_decKeys v d ⟨i, hi16⟩ hi']
  exact ⟨hmod, hxor, hinv, hgt, hle, hxle⟩

theorem checkKeys_of_matchingPair {v : Variant} {e d : KeyBank} (h : MatchingPair v e d) :
    checkKeys (encKeys v e) = .ok () ∧ checkKeys (decKeys v d) = .ok () := by
  have hmod (i : Fin 16) (hi : i.val < v.slotCount) : e.mod[i] ≠ 0 ∧ d.mod[i] ≠ 0 := by
    obtain ⟨heq, -, -, hgt, -⟩ := h i hi
    have hne := ne_zero_of_lt_toNat hgt
    exact ⟨hne, heq ▸ hne⟩
  exact ⟨checkKeys_slotKeys_of_usable _ _ fun i hi => (hmod i hi).1,
    checkKeys_slotKeys_of_usable _ _ fun i hi => (hmod i hi).2⟩

/-- The value multiplied at a slot is below `2^16`, hence below the modulus: decoding recovers it from the product, and
the word from it. -/
theorem slotWord_slotProduct {e d : SlotKey} (h : SlotPair e d) (w : Half) (prev : Word) :
    slotWord d (slotProduct e w prev) (prev &&& 0xFFFF) = w := by
  have hfactor : (e.xork ^^^ (w ^^^ prev.setWidth 16).setWidth 32).toNat < 2 ^ 16 := by
    rw [BitVec.toNat_xor, BitVec.toNat_setWidth_of_le (by decide)]
    exact Nat.xor_lt_two_pow (Nat.lt_succ_of_le h.xork_le) (BitVec.isLt _)
  have hlow : (prev &&& 0xFFFF).setWidth 16 = prev.setWidth 16 := by
    rw [BitVec.setWidth_and]
    exact BitVec.and_allOnes
  rw [slotWord, slotProduct, ← h.modulus_eq, ← h.xork_eq,
    modmul_modmul_of_inverse h.inverse (hfactor.trans_le h.modulus_gt), ← BitVec.xor_assoc, BitVec.xor_self,
    BitVec.zero_xor, BitVec.setWidth_xor, hlow]
  simp

/-- The word loop undoes the product loop. -/
theorem wordStage_mulStage {es ds : List SlotKey} (h : List.Forall₂ SlotPair es ds) {ws : List Half}
    (hlen : ws.length = es.length) (prev : Word) : wordStage (prev &&& 0xFFFF) ds (mulStage prev es ws) = ws := by
  induction h generalizing ws prev with
  | nil => rw [List.length_eq_zero_iff.mp hlen]; rfl
  | cons hpair _ ih =>
    cases ws with
    | nil => simp at hlen
    | cons w ws =>
      rw [mulStage_cons, wordStage_cons, slotWord_slotProduct hpair, ih (Nat.succ.inj hlen)]

/-- The un-fold undoes the fold. -/
theorem unfoldStage_foldStage {es ds : List SlotKey} (h : List.Forall₂ SlotPair es ds) (rs : List Word) :
    unfoldStage ds (foldStage es rs) = rs := by
  induction h generalizing rs with
  | nil => rfl
  | @cons e d es ds hpair _ ih =>
    match rs with
    | [] => rfl
    | [r] => exact unfoldStage_singleton (d :: ds) r
    | r :: r' :: rs =>
      have hne : foldStage es (r' :: rs) ≠ [] := fun h0 => by simpa using congrArg List.length h0
      rw [foldStage, unfoldStage_cons _ _ _ hne, ih, List.getD_cons_zero, hpair.xork_eq]
      simp [BitVec.xor_assoc]

/-- The products are below their moduli, so they fit 18 bits (R159). -/
theorem mulStage_lt {es ds : List SlotKey} (h : List.Forall₂ SlotPair es ds) (ws : List Half) (prev : Word) :
    ∀ r ∈ mulStage prev es ws, r.toNat < 2 ^ 18 := by
  induction h generalizing ws prev with
  | nil => simp [mulStage]
  | cons hpair _ ih =>
    cases ws with
    | nil => simp [mulStage]
    | cons w ws =>
      rw [mulStage_cons, List.forall_mem_cons]
      exact ⟨(toNat_modmul_lt _ _ hpair.modulus_ne_zero).trans_le hpair.modulus_le, ih ws _⟩

/-- The fold changes bits 15:0 only, so its results fit 18 bits too (R159). -/
theorem foldStage_lt {es ds : List SlotKey} (h : List.Forall₂ SlotPair es ds) {rs : List Word}
    (hrs : ∀ r ∈ rs, r.toNat < 2 ^ 18) : ∀ r ∈ foldStage es rs, r.toNat < 2 ^ 18 := by
  induction h generalizing rs with
  | nil => exact hrs
  | cons hpair _ ih =>
    match rs, hrs with
    | [], _ => simp [foldStage]
    | [r], hrs => exact hrs
    | r :: r' :: rs, hrs =>
      obtain ⟨hr, hrest⟩ := List.forall_mem_cons.mp hrs
      rw [foldStage, List.forall_mem_cons]
      refine ⟨?_, ih hrest⟩
      have hx := hpair.xork_le
      have hlow : (r' &&& 0xFFFF).toNat ≤ 0xFFFF := by
        rw [BitVec.toNat_and]
        exact Nat.and_le_right
      rw [BitVec.toNat_xor, BitVec.toNat_xor]
      exact Nat.xor_lt_two_pow (Nat.xor_lt_two_pow hr (by omega)) (by omega)

/-- A value that fits 18 bits survives packing and unpacking. -/
theorem setWidth_setWidth_of_lt {x : Word} (h : x.toNat < 2 ^ 18) : (x.setWidth 18).setWidth 32 = x := by
  refine BitVec.eq_of_toNat_eq ?_
  rw [BitVec.toNat_setWidth_of_le (by decide), BitVec.toNat_setWidth, Nat.mod_eq_of_lt h]

/-- The plaintext of an encoded block, whatever trailer follows it. -/
theorem decPlain_packAll_encRing {v : Variant} {e d : KeyBank} (h : MatchingPair v e d) {p : List Byte}
    (hp : p.length = v.blockCap) (trailer : List Byte) :
    decPlain v d (packAll v.slotCount (encRing (encKeys v e) p) ++ trailer) = p := by
  have hpairs := slotPairs_of_matchingPair h
  have hwords : (wordsOf p).length = (encKeys v e).length := by simp [hp, v.blockCap_eq]
  have hring : (encRing (encKeys v e) p).length = v.slotCount := by simp [encRing, hwords]
  have hfits : ∀ r ∈ encRing (encKeys v e) p, r.toNat < 2 ^ 18 :=
    foldStage_lt hpairs (mulStage_lt hpairs (wordsOf p) 0)
  have hunpack : unpackAll v.slotCount (packAll v.slotCount (encRing (encKeys v e) p) ++ trailer)
      = encRing (encKeys v e) p := by
    rw [← unpackAll_take v.region_exact, List.take_left' (packAll_length ..),
      unpackAll_packAll v.region_exact hring]
    exact (List.map_congr_left fun r hr => setWidth_setWidth_of_lt (hfits r hr)).trans (List.map_id _)
  have heven : p.length % 2 = 0 := by rw [hp, v.blockCap_eq]; omega
  rw [decPlain_eq, decRing, hunpack, encRing, unfoldStage_foldStage hpairs]
  exact (congrArg bytesOf (wordStage_mulStage hpairs hwords 0)).trans (bytesOf_wordsOf p heven)

end Sys2Proof.Machine

/-!
The obligations of the block codec (41_block_codec.md R150 to R158).
-/

namespace Sys2Proof.Machine

/-! ### The micro-operations as instructions -/

/-- BLK.ENC answers in every state, for a block of the variant's size (R153). -/
theorem exec_blkEnc_of_length {s : State} {p : List Byte} (h : p.length = s.variant.blockCap) (bank : Bank) (u : Byte) :
    exec (.blkEnc bank p u) s = .next { s with resp := encAnswer (blkEnc s.variant (s.bank bank) p u) } := by
  have harm : exec (.blkEnc bank p u) s = execBlkEnc bank p u s := rfl
  rw [harm, execBlkEnc, if_pos h]
  rfl

/-- BLK.DEC answers in every state, for a block of the variant's size (R154). -/
theorem exec_blkDec_of_length {s : State} {c : List Byte} (h : c.length = s.variant.encBlockSize) (bank : Bank)
    (lenient : Bool) : exec (.blkDec bank c lenient) s =
      .next { s with resp := decAnswer (blkDec s.variant (s.bank bank) c lenient) } := by
  have harm : exec (.blkDec bank c lenient) s = execBlkDec bank c lenient s := rfl
  rw [harm, execBlkDec, if_pos h]
  rfl

/-- Settles O48: the answer is `modmul`, exact for every modulus but 0. -/
theorem modmulExact : Obligations.ModmulExact :=
  fun _ a k _ hm => ⟨_, rfl, toNat_modmul a k hm, toNat_modmul_lt a k hm⟩

/-- Settles O49: within the bytes the answer is `csum`, from which the seed is taken out. -/
theorem csumFold : Obligations.CsumFold := by
  intro s p n hn
  have harm : exec (.csum p n) s = .next { s with resp := .byte (csumOperand p n) } := rfl
  rw [harm, csumOperand, if_pos hn, csum_eq]
  rfl

/-! ### The formulas of BLK.ENC and BLK.DEC -/

theorem wordsOf_length_of_block {v : Variant} {p : List Byte} (hp : p.length = v.blockCap) :
    (wordsOf p).length = v.slotCount := by simp [hp, v.blockCap_eq]

/-- The products of a block (R153). -/
def encProducts (v : Variant) (bank : KeyBank) (p : List Byte) : List Word :=
  mulStage 0 (encKeys v bank) (wordsOf p)

theorem encRing_eq (v : Variant) (bank : KeyBank) (p : List Byte) :
    encRing (encKeys v bank) p = foldStage (encKeys v bank) (encProducts v bank p) := rfl

theorem encProducts_length {v : Variant} {p : List Byte} (hp : p.length = v.blockCap) (bank : KeyBank) :
    (encProducts v bank p).length = v.slotCount := by simp [encProducts, wordsOf_length_of_block hp]

/-- The product of slot `i`, over the natural numbers (R153). -/
theorem toNat_encProducts {v : Variant} {bank : KeyBank} {p : List Byte} (hp : p.length = v.blockCap)
    (hkeys : KeysUsable v bank) {i : Fin 16} (hi : i.val < v.slotCount) :
    ((encProducts v bank p).getD i 0).toNat =
      (bank.xork[i] ^^^ ((p.getD (2 * i + 1) 0 ++ p.getD (2 * i) 0) ^^^
        (if i.val = 0 then 0 else ((encProducts v bank p).getD (i - 1) 0).setWidth 16)).setWidth 32).toNat
        * bank.enc[i].toNat % bank.mod[i].toNat := by
  have hk : i.val < (encKeys v bank).length := by simpa using hi
  have hw : i.val < (wordsOf p).length := by rwa [wordsOf_length_of_block hp]
  rw [encProducts, getD_mulStage 0 hk hw, getElem_encKeys v bank i hk, getElem_wordsOf p i hw, slotProduct,
    toNat_modmul _ _ (hkeys i hi), apply_ite (BitVec.setWidth 16)]
  rfl

/-- The folded value of slot `i` (R153). -/
theorem getD_encRing {v : Variant} {p : List Byte} (hp : p.length = v.blockCap) (bank : KeyBank) {i : Fin 16}
    (hi : i.val < v.slotCount) : (encRing (encKeys v bank) p).getD i 0 =
      if i.val + 1 < v.slotCount then (encProducts v bank p).getD i 0 ^^^ bank.xork[i] ^^^
        ((encProducts v bank p).getD (i + 1) 0 &&& 0xFFFF)
      else (encProducts v bank p).getD i 0 := by
  have hk : i.val < (encKeys v bank).length := by simpa using hi
  rw [encRing_eq, getD_foldStage hk, encProducts_length hp, getElem_encKeys v bank i hk]

/-- Settles O55: the checks in their order; with usable keys `r` are the products and `g` the folded values. -/
theorem blkEncFormula : Obligations.BlkEncFormula := by
  intro s bank p u hp
  rw [exec_blkEnc_of_length hp]
  refine ⟨fun hsize => ?_, fun i hu ⟨hi, hzero, hlow⟩ => ?_, fun hu hkeys => ?_⟩
  · rw [blkEnc, if_pos hsize]
    rfl
  · rw [blkEnc_of_checkKeys_error p hu (checkKeys_slotKeys_of_lowest _ _ hi hzero hlow)]
    rfl
  · have hring : (encRing (encKeys s.variant (s.bank bank)) p).length = s.variant.slotCount := by
      simp [encRing_eq, encProducts_length hp]
    refine ⟨((encProducts s.variant (s.bank bank) p).getD · 0), ((encRing (encKeys s.variant (s.bank bank)) p).getD · 0),
      _, _, fun i hi => toNat_encProducts hp hkeys hi, fun i hi => getD_encRing hp _ hi, rfl, rfl, ?_⟩
    have htable := map_range_getD (encRing (encKeys s.variant (s.bank bank)) p) 0
    rw [hring] at htable
    rw [blkEnc_of_checkKeys_ok p hu (checkKeys_slotKeys_of_usable _ _ hkeys), htable]
    rfl

/-- The un-folded value of slot `i` (R154). -/
theorem getD_decRing (v : Variant) (bank : KeyBank) (c : List Byte) {i : Fin 16} (hi : i.val < v.slotCount) :
    (decRing v bank c).getD i 0 = if i.val + 1 < v.slotCount then
        (unpack18 c i).setWidth 32 ^^^ bank.xork[i] ^^^ ((decRing v bank c).getD (i + 1) 0 &&& 0xFFFF)
      else (unpack18 c i).setWidth 32 := by
  have hk : i.val < (decKeys v bank).length := by simpa using hi
  rw [decRing, getD_unfoldStage hk, unpackAll_length, getD_unpackAll hi, getElem_decKeys v bank i hk]

/-- The words of a ciphertext block (R154). -/
def decWords (v : Variant) (bank : KeyBank) (c : List Byte) : List Half :=
  wordStage 0 (decKeys v bank) (decRing v bank c)

theorem decWords_length (v : Variant) (bank : KeyBank) (c : List Byte) :
    (decWords v bank c).length = v.slotCount := by simp [decWords]

/-- The product of slot `i` (R154). -/
def decProduct (v : Variant) (bank : KeyBank) (c : List Byte) (i : Nat) : Word :=
  modmul ((decRing v bank c).getD i 0) (bank.dec.toList.getD i 0) (bank.mod.toList.getD i 0)

theorem decProduct_eq (v : Variant) (bank : KeyBank) (c : List Byte) (i : Fin 16) :
    decProduct v bank c i = modmul ((decRing v bank c).getD i 0) bank.dec[i] bank.mod[i] := by
  simp [decProduct]

/-- The word of slot `i` (R154). -/
theorem getD_decWords (v : Variant) (bank : KeyBank) (c : List Byte) {i : Fin 16} (hi : i.val < v.slotCount) :
    (decWords v bank c).getD i 0 =
      (bank.xork[i] ^^^ decProduct v bank c i ^^^
        (if i.val = 0 then 0 else (decRing v bank c).getD (i - 1) 0 &&& 0xFFFF)).setWidth 16 := by
  have hk : i.val < (decKeys v bank).length := by simpa using hi
  have hr : i.val < (decRing v bank c).length := by simpa using hi
  rw [decWords, getD_wordStage 0 hk hr, getElem_decKeys v bank i hk, slotWord, decProduct_eq]

/-- The plaintext is the bytes of the words, low byte first (R62, R154). -/
theorem decPlain_eq_flatMap (v : Variant) (bank : KeyBank) (c : List Byte) :
    decPlain v bank c = (List.range v.slotCount).flatMap fun i =>
      [((decWords v bank c).getD i 0).extractLsb' 0 8, ((decWords v bank c).getD i 0).extractLsb' 8 8] := by
  have htable := map_range_getD (decWords v bank c) 0
  rw [decWords_length] at htable
  calc decPlain v bank c
      = ((List.range v.slotCount).map ((decWords v bank c).getD · 0)).flatMap
          fun w => [w.extractLsb' 0 8, w.extractLsb' 8 8] := by rw [htable, decPlain_eq, bytesOf_eq_flatMap]; rfl
    _ = _ := List.flatMap_map ..

/-- The trailer of a block gives its `usedLen` (R100). -/
theorem xor_trailer (v : Variant) (c : List Byte) :
    c.getD (v.encBlockSize - 2) 0 ^^^ c.getD (v.encBlockSize - 1) 0 ^^^ 0x3D = trailerUsed v c := rfl

/-- Settles O56: the key check first; with usable keys `r` are the un-folded values, `m` the products and `w` the words,
and the answer is that of the trailer checks. -/
theorem blkDecFormula : Obligations.BlkDecFormula := by
  intro s bank c lenient hc
  rw [exec_blkDec_of_length hc]
  refine ⟨fun i ⟨hi, hzero, hlow⟩ => ?_, fun hkeys => ?_⟩
  · rw [blkDec_of_checkKeys_error c lenient (checkKeys_slotKeys_of_lowest _ _ hi hzero hlow)]
    rfl
  · refine ⟨((decRing s.variant (s.bank bank) c).getD · 0), decProduct s.variant (s.bank bank) c,
      ((decWords s.variant (s.bank bank) c).getD · 0), _, _, _, _, _,
      fun i hi => getD_decRing _ _ c hi, fun i hi => ⟨?_, getD_decWords _ _ c hi⟩,
      decPlain_eq_flatMap .., rfl, rfl, rfl, rfl, ?_⟩
    · rw [decProduct_eq, toNat_modmul _ _ (hkeys i hi)]
    · rw [blkDec_of_checkKeys_ok c lenient (checkKeys_slotKeys_of_usable _ _ hkeys),
        checkTrailer_eq (xor_trailer s.variant c)]
      split_ifs <;> rfl

/-! ### The round trip -/

/-- The two bytes after the packed region are the trailer. -/
theorem getD_trailer {v : Variant} {body : List Byte} (h : body.length = v.encBlockSize - 2) (t0 t1 : Byte) :
    (body ++ [t0, t1]).getD (v.encBlockSize - 2) 0 = t0 ∧ (body ++ [t0, t1]).getD (v.encBlockSize - 1) 0 = t1 := by
  have hlast : v.encBlockSize - 1 = body.length + 1 := by rw [h, v.encBlockSize_eq]; omega
  rw [← h, hlast]
  constructor <;> simp [List.getD_eq_getElem?_getD]

/-- Settles O57: decoding reads the block back from the packed region, and the trailer gives the size and the checksum
with which it was written. -/
theorem blockRoundTrip : Obligations.BlockRoundTrip := by
  intro v e d p u lenient hpair hp hu
  obtain ⟨henc, hdec⟩ := checkKeys_of_matchingPair hpair
  have hregion : (packAll v.slotCount (encRing (encKeys v e) p)).length = v.encBlockSize - 2 := by
    simp [v.encBlockSize_eq]
  obtain ⟨ht0, ht1⟩ := getD_trailer hregion (u ^^^ blockSizeXorKey ^^^ csum p u.toNat) (csum p u.toNat)
  have hused : u ^^^ blockSizeXorKey ^^^ csum p u.toNat ^^^ csum p u.toNat ^^^ 0x3D = u := by
    simp [BitVec.xor_assoc, blockSizeXorKey]
  refine ⟨_, blkEnc_of_checkKeys_ok p hu henc, ?_⟩
  rw [blkDec_of_checkKeys_ok _ lenient hdec, decPlain_packAll_encRing hpair hp, ht0, ht1, checkTrailer_eq hused,
    if_neg (not_lt.mpr hu), if_pos rfl]

/-! ### A flipped trailer (R158) -/

/-- A block that decodes without a warning: its plaintext, its size and its checksum. -/
theorem trailer_of_blkDec_ok {v : Variant} {bank : KeyBank} {c p : List Byte} {u : Byte}
    (h : blkDec v bank c false = .ok ⟨p, u, false⟩) :
    checkKeys (decKeys v bank) = .ok () ∧ decPlain v bank c = p ∧
      c.getD (v.encBlockSize - 2) 0 ^^^ c.getD (v.encBlockSize - 1) 0 ^^^ 0x3D = u ∧ u.toNat ≤ v.blockCap ∧
      csum p u.toNat = c.getD (v.encBlockSize - 1) 0 := by
  rcases blkDec_cases v bank c false with ⟨x, -, herr⟩ | ⟨hkeys, hdec⟩
  · rw [herr] at h
    cases h
  rw [hdec, checkTrailer_eq rfl] at h
  simp only [Bool.false_eq_true, if_false] at h
  split_ifs at h with hsize hsum
  cases h
  exact ⟨hkeys, rfl, rfl, not_lt.mp hsize, hsum⟩

/-- A block with another checksum byte decodes to the same plaintext, checked against that byte. -/
theorem blkDec_set_last {v : Variant} {bank : KeyBank} {c : List Byte} (hc : c.length = v.encBlockSize)
    (hkeys : checkKeys (decKeys v bank) = .ok ()) (t1 : Byte) (lenient : Bool) :
    blkDec v bank (c.set (v.encBlockSize - 1) t1) lenient =
      checkTrailer v (decPlain v bank c) (c.getD (v.encBlockSize - 2) 0) t1 lenient := by
  have hsize : 2 ≤ v.encBlockSize := by rw [v.encBlockSize_eq]; omega
  have hregion : decPlain v bank (c.set (v.encBlockSize - 1) t1) = decPlain v bank c :=
    decPlain_congr v bank (List.take_set_of_le (by omega))
  rw [blkDec_of_checkKeys_ok _ lenient hkeys, hregion]
  congr 1
  · simp [List.getD_eq_getElem?_getD, show v.encBlockSize - 1 ≠ v.encBlockSize - 2 by omega]
  · simp [List.getD_eq_getElem?_getD, hc, show 0 < v.encBlockSize by omega]

/-- The same for two other trailer bytes. -/
theorem blkDec_set_trailer {v : Variant} {bank : KeyBank} {c : List Byte} (hc : c.length = v.encBlockSize)
    (hkeys : checkKeys (decKeys v bank) = .ok ()) (t0 t1 : Byte) (lenient : Bool) :
    blkDec v bank ((c.set (v.encBlockSize - 1) t1).set (v.encBlockSize - 2) t0) lenient =
      checkTrailer v (decPlain v bank c) t0 t1 lenient := by
  have hsize : 2 ≤ v.encBlockSize := by rw [v.encBlockSize_eq]; omega
  have hregion : decPlain v bank (c.set (v.encBlockSize - 2) t0) = decPlain v bank c :=
    decPlain_congr v bank (List.take_set_of_le le_rfl)
  rw [List.set_comm _ _ (by omega), blkDec_set_last (by simpa using hc) hkeys, hregion]
  congr 1
  simp [List.getD_eq_getElem?_getD, hc, show 0 < v.encBlockSize by omega]

/-- A flipped bit of a size up to 8: bits 4 to 7 always make it too large, bit 3 unless it was 0 or 8. -/
theorem lt_toNat_flip {u : Byte} {b : Nat} (hu : u.toNat ≤ 8) (hb : b < 8) (h : 4 ≤ b ∨ (b = 3 ∧ u ≠ 0 ∧ u ≠ 8)) :
    8 < (u ^^^ 1#8 <<< b).toNat := by
  have hsmall : ∀ n < 9, ∀ b < 8, 4 ≤ b ∨ (b = 3 ∧ BitVec.ofNat 8 n ≠ 0 ∧ BitVec.ofNat 8 n ≠ 8) →
      8 < (BitVec.ofNat 8 n ^^^ 1#8 <<< b).toNat := by decide
  have hsame : BitVec.ofNat 8 u.toNat = u := by simp
  have hflip := hsmall u.toNat (by omega) b hb
  rw [hsame] at hflip
  exact hflip h

theorem flip_ne_zero {b : Nat} (hb : b < 8) : 1#8 <<< b ≠ 0#8 := by
  revert b
  decide

/-- A bit flipped in both bytes cancels out of their XOR. -/
theorem xor_xor_xor_cancel (x y flip : Byte) : x ^^^ flip ^^^ (y ^^^ flip) = x ^^^ y := by
  rw [BitVec.xor_comm y, BitVec.xor_assoc, ← BitVec.xor_assoc flip, BitVec.xor_self, BitVec.zero_xor]

/-- Settles O58: the flip changes the size by the same bit, so the checksum is taken over another span, and the two spans
differ by the fold of the bytes between their ends; flipped in both bytes, the bit cancels out of the size. -/
theorem trailerFlip : Obligations.TrailerFlip := by
  intro v bank c p u last b used' sum' hc hdec hb hlast hused' hsum'
  obtain ⟨hkeys, hplain, hused, hu, hsum⟩ := trailer_of_blkDec_ok hdec
  rw [← hlast] at hused hsum
  have hsize : c.getD (v.encBlockSize - 2) 0 ^^^ (last ^^^ 1#8 <<< b) ^^^ 0x3D = used' := by
    rw [hused', ← hused]
    ac_rfl
  have hkept : c.getD (v.encBlockSize - 2) 0 ^^^ 1#8 <<< b ^^^ (last ^^^ 1#8 <<< b) ^^^ 0x3D = u := by
    rw [xor_xor_xor_cancel, hused]
  have hone (lenient : Bool) := blkDec_set_last hc hkeys (last ^^^ 1#8 <<< b) lenient
  have hboth (lenient : Bool) :=
    blkDec_set_trailer hc hkeys (c.getD (v.encBlockSize - 2) 0 ^^^ 1#8 <<< b) (last ^^^ 1#8 <<< b) lenient
  have hspan := csum_eq_xor_between p u.toNat used'.toNat
  rw [hsum] at hspan
  have hdiffers : csum p u.toNat ≠ last ^^^ 1#8 <<< b := by
    rw [hsum]
    exact fun h => flip_ne_zero hb ((BitVec.xor_right_inj last).mp (h.symm.trans BitVec.xor_zero.symm))
  rw [hplain] at hone hboth
  simp only [hone, hboth, checkTrailer_eq hsize, checkTrailer_eq hkept]
  refine ⟨fun hlarge _ => if_pos hlarge, fun hfits hfold lenient => ?_, fun hfits hfold => ?_, fun hnew hcase => ?_, ?_⟩
  · have hmatch : csum p used'.toNat = last ^^^ 1#8 <<< b := hspan.trans (congrArg _ hfold)
    rw [if_neg (not_lt.mpr hfits), if_pos hmatch]
  · have hmismatch : csum p used'.toNat ≠ last ^^^ 1#8 <<< b := by
      rw [hspan]
      exact fun h => hfold ((BitVec.xor_right_inj last).mp h)
    rw [if_neg (not_lt.mpr hfits), if_neg hmismatch, if_neg (not_lt.mpr hfits), if_neg hmismatch, hsum']
    exact ⟨rfl, rfl⟩
  · subst hnew
    rw [hused']
    exact lt_toNat_flip hu hb hcase
  · rw [if_neg (not_lt.mpr hu), if_neg hdiffers, if_neg (not_lt.mpr hu), if_neg hdiffers, hsum]
    exact ⟨rfl, rfl⟩

end Sys2Proof.Machine

/-!
The framer (42_framer.md R180, R185): the declared length and the framer's state of a buffer that grows by a byte, what
RX.BYTE does at each place of a frame, and the transition table assembled from these.
-/

namespace Sys2Proof.Machine

/-! ### The header of a buffer -/

/-- R91: the two header lengths. -/
theorem hdrLen_bounds (t : Byte) : 2 ≤ hdrLen t ∧ hdrLen t ≤ 3 := by
  unfold hdrLen
  split <;> decide

/-- A header has at least two bytes, so a buffer that its next byte completes or follows already holds the type byte. -/
theorem length_pos_of_hdrLen_le {buf : List Byte} (h : hdrLen (buf.getD 0 0) ≤ buf.length + 1) : 0 < buf.length := by
  have := hdrLen_bounds (buf.getD 0 0)
  omega

/-- R93: a length field has 8 or 16 bits, so no declared length exceeds this build's RXBUF_CAP (R186). -/
theorem totalLen_le_rxbufCap (buf : List Byte) : totalLen buf ≤ Config.rxbufCap := by
  have hshort := (buf.getD 1 0).isLt
  have hlong := (be16 (buf.getD 1 0) (buf.getD 2 0)).isLt
  unfold totalLen Config.rxbufCap
  split <;> omega

/-- Bytes behind a complete header do not change the declared length. -/
theorem totalLen_append {buf : List Byte} (h : hdrLen (buf.getD 0 0) ≤ buf.length) (bs : List Byte) :
    totalLen (buf ++ bs) = totalLen buf := by
  have ⟨hlow, hhigh⟩ := hdrLen_bounds (buf.getD 0 0)
  have h0 : (buf ++ bs).getD 0 0 = buf.getD 0 0 := List.getD_append _ _ _ _ (by omega)
  have h1 : (buf ++ bs).getD 1 0 = buf.getD 1 0 := List.getD_append _ _ _ _ (by omega)
  unfold totalLen
  rw [h0, h1]
  by_cases hshort : hdrLen (buf.getD 0 0) = 2
  · rw [if_pos hshort, if_pos hshort]
  · have h2 : (buf ++ bs).getD 2 0 = buf.getD 2 0 := List.getD_append _ _ _ _ (by omega)
    rw [if_neg hshort, if_neg hshort, h2]

/-- Bytes behind the type byte leave it where it is. -/
theorem getD_zero_append {buf : List Byte} (h : 0 < buf.length) (bs : List Byte) :
    (buf ++ bs).getD 0 0 = buf.getD 0 0 :=
  List.getD_append _ _ _ _ h

theorem getD_zero_of_head? {buf : List Byte} {t : Byte} (h : buf.head? = some t) : buf.getD 0 0 = t := by
  rw [List.getD_eq_getElem?_getD, ← List.head?_eq_getElem?, h, Option.getD_some]

/-- A short header declares its second byte (R93). -/
theorem totalLen_short_header (len : Byte) : totalLen [0xC1, len] = len.toNat := rfl

/-- A long header whose high byte is zero declares its low byte (R63, R93). -/
theorem totalLen_long_header {t : Byte} (hlong : hdrLen t = 3) (lo : Byte) : totalLen [t, 0, lo] = lo.toNat := by
  have htotal : totalLen [t, 0, lo] = (be16 0 lo).toNat := if_neg (show hdrLen t ≠ 2 by omega)
  rw [htotal]
  exact (BitVec.toNat_append 0#8 lo).trans (by simp)

/-! ### The framer's state of a buffer (R24) -/

/-- An empty buffer needs no case of its own: it is shorter than every header. -/
theorem rxStateOf_eq (buf : List Byte) :
    rxStateOf buf =
      if buf.length < hdrLen (buf.getD 0 0) then .awaitingHeader
      else if buf.length < totalLen buf then .awaitingContent
      else .emit := by
  cases buf with
  | nil => rfl
  | cons t rest => rfl

theorem rxStateOf_eq_awaitingHeader_iff {buf : List Byte} :
    rxStateOf buf = .awaitingHeader ↔ buf.length < hdrLen (buf.getD 0 0) := by
  rw [rxStateOf_eq]
  split
  · simp_all
  · split <;> simp_all

theorem rxStateOf_eq_awaitingContent_iff {buf : List Byte} :
    rxStateOf buf = .awaitingContent ↔ hdrLen (buf.getD 0 0) ≤ buf.length ∧ buf.length < totalLen buf := by
  rw [rxStateOf_eq]
  split
  · simp_all
  · split <;> simp_all

theorem rxStateOf_eq_emit_iff {buf : List Byte} :
    rxStateOf buf = .emit ↔ hdrLen (buf.getD 0 0) ≤ buf.length ∧ totalLen buf ≤ buf.length := by
  rw [rxStateOf_eq]
  split
  · simp_all
  · split <;> simp_all

theorem rxRemainOf_of_awaitingContent {buf : List Byte} (h : rxStateOf buf = .awaitingContent) :
    rxRemainOf buf = totalLen buf - buf.length :=
  if_pos h

/-- The framer's state after the byte that completes a header which declares at least its own length. -/
theorem rxStateOf_at_header_end {buf : List Byte} {b : Byte} (h : buf.length + 1 = hdrLen (buf.getD 0 0)) :
    (totalLen (buf ++ [b]) = hdrLen (buf.getD 0 0) → rxStateOf (buf ++ [b]) = .emit) ∧
    (hdrLen (buf.getD 0 0) < totalLen (buf ++ [b]) →
      rxStateOf (buf ++ [b]) = .awaitingContent ∧
      rxRemainOf (buf ++ [b]) = totalLen (buf ++ [b]) - hdrLen (buf.getD 0 0)) := by
  have hpos : 0 < buf.length := length_pos_of_hdrLen_le (by omega)
  have hhdr : hdrLen ((buf ++ [b]).getD 0 0) = hdrLen (buf.getD 0 0) := by rw [getD_zero_append hpos]
  have hlen : (buf ++ [b]).length = hdrLen (buf.getD 0 0) := by rw [List.length_append, ← h]; rfl
  refine ⟨fun htotal => rxStateOf_eq_emit_iff.mpr (by omega), fun htotal => ?_⟩
  have hcontent : rxStateOf (buf ++ [b]) = .awaitingContent := rxStateOf_eq_awaitingContent_iff.mpr (by omega)
  exact ⟨hcontent, by rw [rxRemainOf_of_awaitingContent hcontent, hlen]⟩

/-- The framer's state after a content byte: RX_REMAIN counts down, and the last byte completes the frame. -/
theorem rxStateOf_append_content {buf : List Byte} (h : rxStateOf buf = .awaitingContent) (b : Byte) :
    (1 < rxRemainOf buf →
      rxStateOf (buf ++ [b]) = .awaitingContent ∧ rxRemainOf (buf ++ [b]) = rxRemainOf buf - 1) ∧
    (rxRemainOf buf = 1 → rxStateOf (buf ++ [b]) = .emit) := by
  obtain ⟨hcomplete, hopen⟩ := rxStateOf_eq_awaitingContent_iff.mp h
  have hpos : 0 < buf.length := length_pos_of_hdrLen_le (by omega)
  have hhdr : hdrLen ((buf ++ [b]).getD 0 0) = hdrLen (buf.getD 0 0) := by rw [getD_zero_append hpos]
  have htotal := totalLen_append hcomplete [b]
  have hlen : (buf ++ [b]).length = buf.length + 1 := List.length_append
  rw [rxRemainOf_of_awaitingContent h]
  refine ⟨fun hmore => ?_, fun hlast => rxStateOf_eq_emit_iff.mpr (by omega)⟩
  have hcontent : rxStateOf (buf ++ [b]) = .awaitingContent := rxStateOf_eq_awaitingContent_iff.mpr (by omega)
  exact ⟨hcontent, by rw [rxRemainOf_of_awaitingContent hcontent]; omega⟩

/-! ### The checks of RX.BYTE, by the place of the byte in its frame (R181 to R186) -/

/-- A byte that does not complete a header is only checked where it is a type byte. -/
theorem acceptByte_of_length_ne {cap : Nat} {buf : List Byte} {b : Byte} (hrec : buf = [] → isRecognized b = true)
    (h : buf.length + 1 ≠ hdrLen ((buf ++ [b]).getD 0 0)) : acceptByte cap buf b = .ok (buf ++ [b]) := by
  have htype : (buf.isEmpty && !isRecognized b) = false := by
    cases buf with
    | nil => simp [hrec rfl]
    | cons t rest => rfl
  have hlen : (buf ++ [b]).length ≠ hdrLen ((buf ++ [b]).getD 0 0) := by rwa [List.length_append]
  simp only [acceptByte, htype, Bool.false_eq_true, if_false, if_neg hlen]

/-- The byte that completes a header is checked for the declared length: first against the header's own length (R185),
then against the capacity (R186). -/
theorem acceptByte_at_header_end {buf : List Byte} (h : buf.length + 1 = hdrLen (buf.getD 0 0)) (cap : Nat) (b : Byte) :
    acceptByte cap buf b =
      if totalLen (buf ++ [b]) < hdrLen (buf.getD 0 0) then
        .error ⟨.contentLength, BitVec.ofNat 32 (totalLen (buf ++ [b])), 3⟩
      else if cap < totalLen (buf ++ [b]) then
        .error ⟨.contentLength, BitVec.ofNat 32 (totalLen (buf ++ [b])), 2⟩
      else .ok (buf ++ [b]) := by
  have hpos : 0 < buf.length := length_pos_of_hdrLen_le (by omega)
  have htype : (buf.isEmpty && !isRecognized b) = false := by
    cases buf with
    | nil => exact absurd hpos (lt_irrefl 0)
    | cons t rest => rfl
  have hlen : (buf ++ [b]).length = hdrLen (buf.getD 0 0) := by rw [List.length_append, ← h]; rfl
  simp only [acceptByte, htype, Bool.false_eq_true, if_false, getD_zero_append hpos, if_pos hlen]

/-! ### RX.BYTE, by the place of the byte in its frame -/

/-- The state after RX.BYTE without a fault (R181): RXBUF holds `buf`. -/
def State.holding (s : State) (buf : List Byte) : State :=
  { s with rxbuf := buf, resp := .done }

@[simp] theorem holding_rxbuf (s : State) (buf : List Byte) : (s.holding buf).rxbuf = buf := rfl
@[simp] theorem holding_rxOpen (s : State) (buf : List Byte) : (s.holding buf).rxOpen = s.rxOpen := rfl
@[simp] theorem holding_rxPos (s : State) (buf : List Byte) : (s.holding buf).rxPos = s.rxPos := rfl
@[simp] theorem holding_haltedWith (s : State) (buf : List Byte) (c d i0 i1 : Word) (p : Dword) :
    (s.holding buf).haltedWith c d i0 i1 p = s.haltedWith c d i0 i1 p := rfl

/-- An open path takes a byte unless a complete frame waits (R181, R183). -/
theorem rxbReady_of_rxOpen {s : State} (hopen : s.rxOpen = true) (hstate : s.rxState ≠ .emit) :
    s.rxbReady = true := by
  obtain ⟨hen, hfault, hclosed⟩ := rxOpen_iff.mp hopen
  exact rxbReady_iff.mpr ⟨hen, hfault, hclosed, hstate⟩

/-- While the header is incomplete the path takes bytes. -/
theorem rxbReady_of_lt_hdrLen {s : State} (hopen : s.rxOpen = true) (h : s.rxbuf.length < hdrLen (s.rxbuf.getD 0 0)) :
    s.rxbReady = true := by
  have hstate : s.rxState = .awaitingHeader := rxStateOf_eq_awaitingHeader_iff.mpr h
  exact rxbReady_of_rxOpen hopen (by simp [hstate])

/-- RX.BYTE on a ready port. -/
theorem exec_rxByte_of_rxbReady {s : State} (hready : s.rxbReady = true) (b : Byte) :
    exec (.rxByte b) s = .next (rxAccept b s) := by
  have harm : exec (.rxByte b) s = execRxByte b s := rfl
  rw [harm, execRxByte, if_pos hready]

/-- A byte that the framer's checks accept is appended. -/
theorem rxAccept_of_acceptByte_ok {s : State} {b : Byte} {buf : List Byte}
    (h : acceptByte Config.rxbufCap s.rxbuf b = .ok buf) : rxAccept b s = s.holding buf := by
  rw [rxAccept, h, State.holding]

/-- A recognized type byte starts a header. -/
theorem rxByte_type_byte {s : State} {t : Byte} (hopen : s.rxOpen = true) (hempty : s.rxbuf = [])
    (hrec : isRecognized t = true) :
    s.rxbReady = true ∧ rxAccept t s = s.holding [t] ∧ rxStateOf [t] = .awaitingHeader := by
  have hfirst : 1 < hdrLen t := (hdrLen_bounds t).1
  have hready : s.rxbReady = true :=
    rxbReady_of_lt_hdrLen hopen (by rw [hempty]; exact Nat.zero_lt_of_lt (hdrLen_bounds _).1)
  have haccept : acceptByte Config.rxbufCap [] t = .ok [t] := acceptByte_of_length_ne (fun _ => hrec) hfirst.ne
  exact ⟨hready, rxAccept_of_acceptByte_ok (by rw [hempty, haccept]), rxStateOf_eq_awaitingHeader_iff.mpr hfirst⟩

/-- The second byte of a long header does not complete it. -/
theorem rxByte_second_byte {s : State} {t : Byte} (hopen : s.rxOpen = true) (hbuf : s.rxbuf = [t])
    (hlong : hdrLen t = 3) (b : Byte) :
    s.rxbReady = true ∧ rxAccept b s = s.holding [t, b] ∧ rxStateOf [t, b] = .awaitingHeader := by
  have hsecond : 2 < hdrLen t := by omega
  have hready : s.rxbReady = true :=
    rxbReady_of_lt_hdrLen hopen (by rw [hbuf]; exact Nat.lt_of_succ_lt hsecond)
  have haccept : acceptByte Config.rxbufCap [t] b = .ok [t, b] :=
    acceptByte_of_length_ne (fun h => nomatch h) hsecond.ne
  exact ⟨hready, rxAccept_of_acceptByte_ok (by rw [hbuf, haccept]), rxStateOf_eq_awaitingHeader_iff.mpr hsecond⟩

/-- R185: the header's last byte declares less than the header has. -/
theorem rxAccept_of_short_total {s : State} {b : Byte} (h : s.rxbuf.length + 1 = hdrLen (s.rxbuf.getD 0 0))
    (hshort : totalLen (s.rxbuf ++ [b]) < hdrLen (s.rxbuf.getD 0 0)) :
    rxAccept b s = s.haltedWith 5 0 (BitVec.ofNat 32 (totalLen (s.rxbuf ++ [b]))) 3 s.rxPos := by
  rw [rxAccept, acceptByte_at_header_end h, if_pos hshort]
  exact faulted_rx_eq s _

/-- The header's last byte, where the declared length covers the header; this build has room for every length. -/
theorem rxAccept_at_header_end {s : State} {b : Byte} (h : s.rxbuf.length + 1 = hdrLen (s.rxbuf.getD 0 0))
    (hcovers : hdrLen (s.rxbuf.getD 0 0) ≤ totalLen (s.rxbuf ++ [b])) :
    rxAccept b s = s.holding (s.rxbuf ++ [b]) := by
  apply rxAccept_of_acceptByte_ok
  rw [acceptByte_at_header_end h, if_neg (not_lt.mpr hcovers), if_neg (not_lt.mpr (totalLen_le_rxbufCap _))]

/-- The byte that completes a header with a short declared length, on an open path (R185). -/
theorem exec_rxByte_of_short_total {s : State} {b : Byte} (hopen : s.rxOpen = true)
    (h : s.rxbuf.length + 1 = hdrLen (s.rxbuf.getD 0 0))
    (hshort : totalLen (s.rxbuf ++ [b]) < hdrLen (s.rxbuf.getD 0 0)) :
    exec (.rxByte b) s = .next (s.haltedWith 5 0 (BitVec.ofNat 32 (totalLen (s.rxbuf ++ [b]))) 3 s.rxPos) := by
  rw [exec_rxByte_of_rxbReady (rxbReady_of_lt_hdrLen hopen (by omega)), rxAccept_of_short_total h hshort]

/-- A content byte is appended unchecked. -/
theorem exec_rxByte_content {s : State} (hopen : s.rxOpen = true) (h : s.rxState = .awaitingContent) (b : Byte) :
    exec (.rxByte b) s = .next (s.holding (s.rxbuf ++ [b])) := by
  obtain ⟨hcomplete, -⟩ := rxStateOf_eq_awaitingContent_iff.mp h
  have hpos : 0 < s.rxbuf.length := length_pos_of_hdrLen_le (by omega)
  have hpast : s.rxbuf.length + 1 ≠ hdrLen ((s.rxbuf ++ [b]).getD 0 0) := by rw [getD_zero_append hpos]; omega
  have haccept : acceptByte Config.rxbufCap s.rxbuf b = .ok (s.rxbuf ++ [b]) :=
    acceptByte_of_length_ne (fun hempty => absurd hempty (List.ne_nil_of_length_pos hpos)) hpast
  rw [exec_rxByte_of_rxbReady (rxbReady_of_rxOpen hopen (by simp [h])), rxAccept_of_acceptByte_ok haccept]

/-- RX.PROCESS on a complete frame empties RXBUF, whether the frame is put into OUTF or faults (R231, R330). -/
theorem rxProcess_empties_rxbuf {s : State} (h : s.rxProcessReady = true) : (rxProcess s).rxbuf = [] := by
  rcases rxProcess_cases s with ⟨hnot, -⟩ | ⟨-, g, ctr, warns, -, hdone⟩ | ⟨-, x, -, hfault⟩
  · simp [hnot] at h
  · rw [hdone]
  · rw [hfault, faulted_rxbuf]

/-! ### A wire frame with a short declared length -/

/-- The type byte of bytes that arrive together. -/
theorem rxFeed_type_byte {s : State} {t : Byte} (hopen : s.rxOpen = true) (hempty : s.rxbuf = [])
    (hrec : isRecognized t = true) (bs : List Byte) : rxFeed (t :: bs) s = rxFeed bs (s.holding [t]) := by
  obtain ⟨hready, haccept, -⟩ := rxByte_type_byte hopen hempty hrec
  obtain ⟨-, hfault, -⟩ := rxOpen_iff.mp hopen
  have happend : s.holding [t] = { s with rxbuf := s.rxbuf ++ [t], resp := .done } := by rw [hempty]; rfl
  rw [happend, rxFeed_cons_ok hready (haccept.trans happend) hfault]

/-- The second byte of a long header, behind its type byte. -/
theorem rxFeed_second_byte {s : State} {t : Byte} (hopen : s.rxOpen = true) (hlong : hdrLen t = 3) (b : Byte)
    (bs : List Byte) : rxFeed (b :: bs) (s.holding [t]) = rxFeed bs (s.holding [t, b]) := by
  obtain ⟨hready, haccept, -⟩ := rxByte_second_byte (s := s.holding [t]) hopen rfl hlong b
  obtain ⟨-, hfault, -⟩ := rxOpen_iff.mp hopen
  exact rxFeed_cons_ok hready haccept hfault

/-- Of bytes that arrive together none is taken after the one that completes a header with a short declared length. -/
theorem rxFeed_cons_of_short_total {s : State} {b : Byte} (hopen : s.rxOpen = true)
    (h : s.rxbuf.length + 1 = hdrLen (s.rxbuf.getD 0 0))
    (hshort : totalLen (s.rxbuf ++ [b]) < hdrLen (s.rxbuf.getD 0 0)) (bs : List Byte) :
    rxFeed (b :: bs) s = s.haltedWith 5 0 (BitVec.ofNat 32 (totalLen (s.rxbuf ++ [b]))) 3 s.rxPos := by
  rw [rxFeed, if_pos (rxbReady_of_lt_hdrLen hopen (by omega)), rxAccept_of_short_total h hshort]
  exact if_pos rfl

/-- A wire frame whose bytes end in a fault does not go on to RX.PROCESS (R121). -/
theorem rxFrame_of_rxFeed_faulted {bs : List Byte} {s t : State} (h : rxFeed bs s = t) (hresp : t.resp = .faulted) :
    rxFrame bs s = t := by
  rcases rxFrame_cases bs s with ⟨hdone, -⟩ | ⟨-, hframe⟩
  · simp [h, hresp] at hdone
  · rw [hframe, h]

/-- Class C1 as an instruction, declaring less than two bytes. -/
theorem rxFrame_shortFrame_of_short_total {s : State} (hopen : s.rxOpen = true) (hempty : s.rxbuf = []) {len : Byte}
    (hlen : len.toNat < 2) :
    rxFrame (shortFrame 0xC1 len []) s = s.haltedWith 5 0 (len.setWidth 32) 3 s.rxPos := by
  have hlast := rxFeed_cons_of_short_total (s := s.holding [0xC1]) (b := len) hopen rfl hlen []
  refine rxFrame_of_rxFeed_faulted ?_ rfl
  rw [shortFrame, rxFeed_type_byte hopen hempty rfl, hlast, holding_rxbuf, List.singleton_append,
    totalLen_short_header, BitVec.ofNat_toNat, holding_haltedWith, holding_rxPos]

/-- A class with a long header as an instruction, declaring less than three bytes. -/
theorem rxFrame_longFrame_of_short_total {s : State} (hopen : s.rxOpen = true) (hempty : s.rxbuf = []) {t lo : Byte}
    (hrec : isRecognized t = true) (hlong : hdrLen t = 3) (hlo : lo.toNat < 3) :
    rxFrame (longFrame t (lo.setWidth 16) []) s = s.haltedWith 5 0 (lo.setWidth 32) 3 s.rxPos := by
  have hhi : (lo.setWidth 16).extractLsb' 8 8 = 0 := by ext i; simp
  have hlow : (lo.setWidth 16).extractLsb' 0 8 = lo := by
    ext i hi
    simp [BitVec.getLsbD_eq_getElem hi, Nat.lt_trans hi (by decide : 8 < 16)]
  have htotal : totalLen ((s.holding [t, 0]).rxbuf ++ [lo]) = lo.toNat := totalLen_long_header hlong lo
  have hhdr : hdrLen ((s.holding [t, 0]).rxbuf.getD 0 0) = 3 := hlong
  have hlast := rxFeed_cons_of_short_total (s := s.holding [t, 0]) (b := lo) hopen hhdr.symm (by omega) []
  refine rxFrame_of_rxFeed_faulted ?_ rfl
  rw [longFrame, hhi, hlow, rxFeed_type_byte hopen hempty hrec, rxFeed_second_byte hopen hlong, hlast, htotal,
    BitVec.ofNat_toNat, holding_haltedWith, holding_rxPos]

/-! ### The obligations -/

/-- Settles O18: the last header byte halts with the declared length, and a wire frame is its header bytes up to that
one. -/
theorem shortDeclaredLength : Obligations.ShortDeclaredLength := by
  refine ⟨fun s len hen hfault hclosed hlen => ?_, fun s lo hen hfault hclosed hlo => ?_⟩
  all_goals have hopen : s.rxOpen = true := rxOpen_iff.mpr ⟨hen, hfault, hclosed⟩
  · refine ⟨fun hbuf => ?_, fun hempty => congrArg _ (rxFrame_shortFrame_of_short_total hopen hempty hlen)⟩
    have htotal : totalLen (s.rxbuf ++ [len]) = len.toNat := by rw [hbuf]; exact totalLen_short_header len
    have hhdr : hdrLen (s.rxbuf.getD 0 0) = 2 := by rw [hbuf]; rfl
    rw [exec_rxByte_of_short_total hopen (by rw [hhdr, hbuf]; rfl) (by omega), htotal, BitVec.ofNat_toNat]
  · refine ⟨fun t ht hbuf => ?_, fun hempty => ?_⟩
    · have hlong : hdrLen t = 3 := by rcases ht with rfl | rfl | rfl <;> rfl
      have htotal : totalLen (s.rxbuf ++ [lo]) = lo.toNat := by rw [hbuf]; exact totalLen_long_header hlong lo
      have hhdr : hdrLen (s.rxbuf.getD 0 0) = 3 := by rw [hbuf]; exact hlong
      rw [exec_rxByte_of_short_total hopen (by rw [hhdr, hbuf]; rfl) (by omega), htotal, BitVec.ofNat_toNat]
    · have hframe {t : Byte} (hrec : isRecognized t = true) (hlong : hdrLen t = 3) :=
        congrArg (Host.Outcome.next (φ := Fault) (ρ := Refusal))
          (rxFrame_longFrame_of_short_total hopen hempty hrec hlong hlo)
      exact ⟨hframe rfl rfl, hframe rfl rfl, hframe rfl rfl⟩

/-- Settles O19: each row is what RX.BYTE does at one place of a frame, with the framer's state of the buffer that
results; the row of an illegal type byte is O17, the last row is RX.PROCESS. -/
theorem framerTransitions : Obligations.FramerTransitions := by
  refine ⟨fun s b hen hfault hclosed _ => ?rxByte, fun cap buf t b ht hend hcovers hcap => ?aboveCapacity,
    totalLen_le_rxbufCap, fun s t hen hfault hemit houtf hstep => ?rxProcess⟩
  case rxByte =>
    have hopen : s.rxOpen = true := rxOpen_iff.mpr ⟨hen, hfault, hclosed⟩
    refine ⟨fun hempty hrec => ?typeByte, fun hempty hrec => ?illegalType, fun t hbuf hlong => ?secondByte,
      fun t ht hend => ?headerEnd, fun hcontent => ⟨exec_rxByte_content hopen hcontent b,
        rxStateOf_append_content hcontent b⟩⟩
    case typeByte =>
      obtain ⟨hready, haccept, hstate⟩ := rxByte_type_byte hopen hempty hrec
      exact ⟨by rw [exec_rxByte_of_rxbReady hready, haccept, State.holding], hstate⟩
    case illegalType =>
      obtain ⟨h1, h2, h3, h4⟩ := isRecognized_eq_false_iff.mp hrec
      have ⟨honRxb, _⟩ := illegalTypeByte s b [] h1 h2 h3 h4
      exact honRxb ⟨hen, hfault, hclosed, hempty⟩
    case secondByte =>
      obtain ⟨hready, haccept, hstate⟩ := rxByte_second_byte hopen hbuf hlong b
      exact ⟨by rw [exec_rxByte_of_rxbReady hready, haccept, State.holding], hstate⟩
    case headerEnd =>
      obtain rfl := getD_zero_of_head? ht
      have hready := rxbReady_of_lt_hdrLen hopen (by omega)
      refine ⟨exec_rxByte_of_short_total hopen hend, fun hcovers => ?_, rxStateOf_at_header_end hend⟩
      rw [exec_rxByte_of_rxbReady hready, rxAccept_at_header_end hend hcovers, State.holding]
  case aboveCapacity =>
    obtain rfl := getD_zero_of_head? ht
    rw [acceptByte_at_header_end hend, if_neg (not_lt.mpr hcovers), if_pos hcap]
  case rxProcess =>
    have hbuf : t.rxbuf = [] := by
      cases hstep
      exact rxProcess_empties_rxbuf (rxProcessReady_iff.mpr ⟨hen, hfault, hemit, houtf⟩)
    exact ⟨hbuf, by rw [State.rxState, hbuf]; rfl⟩

end Sys2Proof.Machine

/-!
Whole frames (30_encoding.md R91 to R95): the frame of a type and a content with its length field filled in, and how a
whole frame passes through the framer (42_framer.md R181 to R183) into RX.PROCESS.
-/

namespace Sys2Proof.Machine

/-! ### The frame of a content -/

/-- The frame of type `t` with a content, its length field filled in (R94, R95), for either header length. -/
def frameOf (t : Byte) (content : List Byte) : List Byte :=
  makeHeader t (hdrLen t + content.length) ++ content

/-- The content bytes that the length field of a type has room for (R94: the largest total less the header). -/
def maxContent (t : Byte) : Nat :=
  if hdrLen t = 2 then 253 else 65532

/-- R91: a header has three bytes for every type but 0xC1. -/
theorem hdrLen_cases (t : Byte) : (t = 0xC1 ∧ hdrLen t = 2) ∨ (t ≠ 0xC1 ∧ hdrLen t = 3) := by
  by_cases h : t = 0xC1
  · exact .inl ⟨h, if_pos h⟩
  · exact .inr ⟨h, if_neg h⟩

theorem frameOf_short (content : List Byte) :
    frameOf 0xC1 content = 0xC1 :: BitVec.ofNat 8 (2 + content.length) :: content := rfl

theorem frameOf_long {t : Byte} (hlong : hdrLen t = 3) (content : List Byte) :
    frameOf t content = t :: BitVec.ofNat 8 ((3 + content.length) / 256) :: BitVec.ofNat 8 (3 + content.length)
      :: content := by
  simp [frameOf, makeHeader, hlong]

/-- The header has the length R91 gives it. -/
theorem frameOf_length (t : Byte) (content : List Byte) : (frameOf t content).length = hdrLen t + content.length := by
  rcases hdrLen_cases t with ⟨rfl, h⟩ | ⟨-, h⟩
  · rw [frameOf_short, h, List.length_cons, List.length_cons]
    omega
  · rw [frameOf_long h, h, List.length_cons, List.length_cons, List.length_cons]
    omega

@[simp] theorem getD_zero_frameOf (t : Byte) (content : List Byte) : (frameOf t content).getD 0 0 = t := by
  rcases hdrLen_cases t with ⟨rfl, -⟩ | ⟨-, h⟩
  · rfl
  · rw [frameOf_long h]; rfl

/-- The content is what follows the header. -/
@[simp] theorem drop_hdrLen_frameOf (t : Byte) (content : List Byte) :
    (frameOf t content).drop (hdrLen t) = content := by
  rcases hdrLen_cases t with ⟨rfl, -⟩ | ⟨-, h⟩
  · rfl
  · rw [frameOf_long h, h]; rfl

theorem shortOf_eq_frameOf (content : List Byte) : shortOf content = frameOf 0xC1 content := rfl

/-- The two bytes of a long length field are its high and its low eight bits (R63). -/
theorem longOf_eq_frameOf {t : Byte} (hlong : hdrLen t = 3) (content : List Byte) :
    longOf t content = frameOf t content := by
  have hhi : (BitVec.ofNat 16 (3 + content.length)).extractLsb' 8 8 = BitVec.ofNat 8 ((3 + content.length) / 256) := by
    refine BitVec.eq_of_toNat_eq ?_
    rw [BitVec.extractLsb'_toNat, BitVec.toNat_ofNat, BitVec.toNat_ofNat, Nat.shiftRight_eq_div_pow]
    omega
  have hlo : (BitVec.ofNat 16 (3 + content.length)).extractLsb' 0 8 = BitVec.ofNat 8 (3 + content.length) := by
    refine BitVec.eq_of_toNat_eq ?_
    rw [BitVec.extractLsb'_toNat, BitVec.toNat_ofNat, BitVec.toNat_ofNat, Nat.shiftRight_zero]
    omega
  rw [frameOf_long hlong, longOf, longFrame, hhi, hlo]

/-! ### The declared length (R93) -/

theorem toNat_be16 (hi lo : Byte) : (be16 hi lo).toNat = 256 * hi.toNat + lo.toNat := by
  rw [be16, BitVec.toNat_append, ← Nat.shiftLeft_add_eq_or_of_lt lo.isLt, Nat.shiftLeft_eq]
  omega

theorem totalLen_short (len : Byte) (content : List Byte) : totalLen (0xC1 :: len :: content) = len.toNat := rfl

theorem totalLen_long {t : Byte} (hlong : hdrLen t = 3) (hi lo : Byte) (content : List Byte) :
    totalLen (t :: hi :: lo :: content) = 256 * hi.toNat + lo.toNat := by
  rw [← toNat_be16]
  exact if_neg (show hdrLen t ≠ 2 by omega)

/-- A length field that has room declares the length of its frame. -/
theorem totalLen_frameOf {t : Byte} {content : List Byte} (hfit : content.length ≤ maxContent t) :
    totalLen (frameOf t content) = hdrLen t + content.length := by
  rcases hdrLen_cases t with ⟨rfl, h⟩ | ⟨-, h⟩
  · have hroom : content.length ≤ 253 := hfit
    rw [frameOf_short, totalLen_short, BitVec.toNat_ofNat, h]
    omega
  · have hroom : content.length ≤ 65532 := by rwa [maxContent, h] at hfit
    rw [frameOf_long h, totalLen_long h, BitVec.toNat_ofNat, BitVec.toNat_ofNat, h]
    omega

/-! ### Whole frames -/

/-- What a whole frame is; a frame that holds its header is not empty. -/
theorem wholeFrame_iff {f : List Byte} :
    wholeFrame f = true ↔
      isRecognized (f.getD 0 0) = true ∧ hdrLen (f.getD 0 0) ≤ f.length ∧ totalLen f = f.length := by
  have hne : hdrLen (f.getD 0 0) ≤ f.length → f ≠ [] := fun h =>
    List.ne_nil_of_length_pos (length_pos_of_hdrLen_le (by omega))
  simp only [wholeFrame, Bool.and_eq_true, Bool.not_eq_true', List.isEmpty_eq_false_iff, decide_eq_true_eq]
  exact ⟨fun ⟨⟨⟨_, hrec⟩, hhdr⟩, htotal⟩ => ⟨hrec, hhdr, htotal⟩,
    fun ⟨hrec, hhdr, htotal⟩ => ⟨⟨⟨hne hhdr, hrec⟩, hhdr⟩, htotal⟩⟩

/-- A content that the length field has room for makes a whole frame. -/
theorem wholeFrame_frameOf {t : Byte} {content : List Byte} (hrec : isRecognized t = true)
    (hfit : content.length ≤ maxContent t) : wholeFrame (frameOf t content) = true := by
  rw [wholeFrame_iff, getD_zero_frameOf, totalLen_frameOf hfit, frameOf_length]
  exact ⟨hrec, Nat.le_add_right .., rfl⟩

/-- A whole frame is the frame of its type and content: the header is determined by them (R95). -/
theorem frameOf_of_wholeFrame {f : List Byte} (h : wholeFrame f = true) :
    frameOf (f.getD 0 0) (f.drop (hdrLen (f.getD 0 0))) = f := by
  obtain ⟨-, hhdr, htotal⟩ := wholeFrame_iff.mp h
  rcases hdrLen_cases (f.getD 0 0) with ⟨ht, hlen⟩ | ⟨-, hlen⟩ <;> rw [hlen] at hhdr ⊢
  · match f, hhdr with
    | t :: len :: content, _ =>
      obtain rfl : t = 0xC1 := ht
      rw [totalLen_short, List.length_cons, List.length_cons] at htotal
      have hdecl : BitVec.ofNat 8 (2 + content.length) = len :=
        BitVec.eq_of_toNat_eq (by rw [BitVec.toNat_ofNat]; omega)
      exact (frameOf_short content).trans (by rw [hdecl])
  · match f, hhdr with
    | t :: hi :: lo :: content, _ =>
      have hlong : hdrLen t = 3 := hlen
      rw [totalLen_long hlong, List.length_cons, List.length_cons, List.length_cons] at htotal
      have hhi : BitVec.ofNat 8 ((3 + content.length) / 256) = hi :=
        BitVec.eq_of_toNat_eq (by rw [BitVec.toNat_ofNat]; omega)
      have hlo : BitVec.ofNat 8 (3 + content.length) = lo :=
        BitVec.eq_of_toNat_eq (by rw [BitVec.toNat_ofNat]; omega)
      exact (frameOf_long hlong content).trans (by rw [hhi, hlo])

/-- A complete frame waits for RX.PROCESS (R24). -/
theorem rxStateOf_wholeFrame {f : List Byte} (h : wholeFrame f = true) : rxStateOf f = .emit := by
  obtain ⟨-, hhdr, htotal⟩ := wholeFrame_iff.mp h
  exact rxStateOf_eq_emit_iff.mpr ⟨hhdr, htotal.le⟩

/-! ### A whole frame on RXB -/

/-- The framer accepts every byte of a whole frame (R181 to R186). -/
theorem acceptByte_of_wholeFrame {buf bs : List Byte} {b : Byte} (h : wholeFrame (buf ++ b :: bs) = true) :
    acceptByte Config.rxbufCap buf b = .ok (buf ++ [b]) := by
  obtain ⟨hrec, hhdr, htotal⟩ := wholeFrame_iff.mp h
  by_cases hend : buf.length + 1 = hdrLen ((buf ++ [b]).getD 0 0)
  · have hpos : 0 < buf.length := by have := hdrLen_bounds ((buf ++ [b]).getD 0 0); omega
    rw [getD_zero_append hpos] at hend hhdr
    have hsame : totalLen (buf ++ b :: bs) = totalLen (buf ++ [b]) := by
      rw [List.append_cons]
      exact totalLen_append (by rw [getD_zero_append hpos, List.length_append, ← hend]; rfl) bs
    rw [acceptByte_at_header_end hend, if_neg (by omega), if_neg (not_lt.mpr (totalLen_le_rxbufCap _))]
  · exact acceptByte_of_length_ne (fun hempty => by subst hempty; exact hrec) hend

/-- A proper part of a whole frame is not complete (R183). -/
theorem rxStateOf_ne_emit_of_wholeFrame {buf bs : List Byte} {b : Byte} (h : wholeFrame (buf ++ b :: bs) = true) :
    rxStateOf buf ≠ .emit := by
  obtain ⟨-, -, htotal⟩ := wholeFrame_iff.mp h
  intro hemit
  obtain ⟨hhdr, hcomplete⟩ := rxStateOf_eq_emit_iff.mp hemit
  rw [totalLen_append hhdr, List.length_append, List.length_cons] at htotal
  omega

/-- The rest of a whole frame arrives together: every byte is appended (R121, R193). -/
theorem rxFeed_of_wholeFrame {s : State} (hopen : s.rxOpen = true) {bs : List Byte}
    (h : wholeFrame (s.rxbuf ++ bs) = true) : rxFeed bs s = s.holding (s.rxbuf ++ bs) := by
  induction bs generalizing s with
  | nil => rw [List.append_nil]; rfl
  | cons b bs ih =>
    have hready := rxbReady_of_rxOpen hopen (rxStateOf_ne_emit_of_wholeFrame h)
    obtain ⟨-, hfault, -⟩ := rxOpen_iff.mp hopen
    have hnext : wholeFrame ((s.holding (s.rxbuf ++ [b])).rxbuf ++ bs) = true := by
      rwa [holding_rxbuf, ← List.append_cons]
    rw [rxFeed_cons_ok hready (rxAccept_of_acceptByte_ok (acceptByte_of_wholeFrame h)) hfault]
    refine (ih (s := s.holding (s.rxbuf ++ [b])) hopen hnext).trans ?_
    rw [holding_rxbuf, ← List.append_cons]
    rfl

/-- A whole frame on a waiting path is assembled and goes on to RX.PROCESS (R121). -/
theorem rxFrame_of_wholeFrame {s : State} (hwait : RxWaiting s) {f : List Byte} (h : wholeFrame f = true) :
    rxFrame f s = rxProcess (s.holding f) := by
  obtain ⟨hen, hfault, hclosed, hempty⟩ := hwait
  have hfeed := rxFeed_of_wholeFrame (rxOpen_iff.mpr ⟨hen, hfault, hclosed⟩) (s := s) (bs := f) (by rwa [hempty])
  rw [hempty, List.nil_append] at hfeed
  rcases rxFrame_cases f s with ⟨-, hframe⟩ | ⟨hnot, -⟩
  · rw [hframe, hfeed]
  · exact absurd (by rw [hfeed]; rfl) hnot

/-! ### RX.PROCESS on a whole frame -/

/-- RX.PROCESS is enabled on a whole frame (R231). -/
theorem rxProcessReady_of_wholeFrame {s : State} {f : List Byte} (hholds : RxHolds s f) (h : wholeFrame f = true) :
    s.rxProcessReady = true := by
  obtain ⟨hen, hfault, houtf, rfl⟩ := hholds
  exact rxProcessReady_iff.mpr ⟨hen, hfault, rxStateOf_wholeFrame h, houtf⟩

/-- RX.PROCESS of a whole frame that decodes puts the result into OUTF (R231). -/
theorem rxProcess_of_decryptFrame_ok {s : State} {f g : List Byte} {ctr : Byte} {warns : Nat} (hholds : RxHolds s f)
    (h : wholeFrame f = true) (hdec : decryptFrame s.variant s.rxk s.rxCtr s.lenient f = .ok (g, ctr, warns)) :
    rxProcess s = s.delivered g ctr f.length warns := by
  have hready := rxProcessReady_of_wholeFrame hholds h
  obtain ⟨-, -, -, rfl⟩ := hholds
  rw [rxProcess, if_pos hready, hdec]
  rfl

/-- The same for a whole frame that arrives on a waiting path. -/
theorem rxFrame_of_decryptFrame_ok {s : State} {f g : List Byte} {ctr : Byte} {warns : Nat} (hwait : RxWaiting s)
    (houtf : s.outf = none) (h : wholeFrame f = true)
    (hdec : decryptFrame s.variant s.rxk s.rxCtr s.lenient f = .ok (g, ctr, warns)) :
    rxFrame f s = s.delivered g ctr f.length warns := by
  have ⟨hen, hfault, _, _⟩ := hwait
  rw [rxFrame_of_wholeFrame hwait h,
    rxProcess_of_decryptFrame_ok (s := s.holding f) ⟨hen, hfault, houtf, rfl⟩ h hdec]
  rfl

/-- A frame of a type below 0xC3 is not deciphered (R221, R231). -/
theorem decryptFrame_of_not_isCipher {f : List Byte} (h : isCipher (f.getD 0 0) = false) (v : Variant) (bank : KeyBank)
    (ctr : Byte) (lenient : Bool) : decryptFrame v bank ctr lenient f = .ok (f, ctr, 0) := by
  simp only [decryptFrame, h, Bool.false_eq_true, if_false]

end Sys2Proof.Machine

/-!
TX.FRAME on what is submitted (43_stream_encryptor.md R211, R212): the validation and the frames that pass unchanged on
both paths (R221).
-/

namespace Sys2Proof.Machine

/-! ### TX.FRAME by what the enciphering answers -/

/-- TX.FRAME of a frame whose enciphering raises, the halted state written out (R212, R330). -/
theorem exec_txFrame_halts {s : State} {f : List Byte} {x : Raised} (hwait : TxWaiting s)
    (h : encryptFrame s.variant s.txk s.txCtr f = .error x) :
    exec (.txFrame f) s = .next (s.haltedWith (x.cause.code.setWidth 32) 1 x.info0 x.info1 s.txPos) := by
  rw [exec_txFrame_of_encryptFrame_error (txfReady_iff.mpr hwait) h, faulted_tx_eq]

/-- TX.FRAME without a fault: the bytes in TXOUT and the counter (R212). -/
theorem exec_txFrame_of_encryptFrame_ok {s : State} {f out : List Byte} {ctr : Byte} (hwait : TxWaiting s)
    (h : encryptFrame s.variant s.txk s.txCtr f = .ok (out, ctr)) :
    exec (.txFrame f) s = .next { s with txout := out, txCtr := ctr, resp := .done } := by
  have harm : exec (.txFrame f) s = execTxFrame f s := rfl
  rw [harm, execTxFrame, if_pos (txfReady_iff.mpr hwait), h]

/-! ### The validation (R211) -/

/-- A submission that R211 rejects halts, whatever the keys and the counter are. -/
theorem exec_txFrame_of_validateTx_error {s : State} {f : List Byte} {x : Raised} (hwait : TxWaiting s)
    (h : validateTx f = .error x) :
    exec (.txFrame f) s = .next (s.haltedWith (x.cause.code.setWidth 32) 1 x.info0 x.info1 s.txPos) :=
  exec_txFrame_halts hwait (encryptFrame_of_validateTx_error h ..)

/-- The third check: the length is below the header's or is not the declared one. -/
theorem validateTx_of_wrong_length {t : Byte} {rest : List Byte} (hrec : isRecognized t = true)
    (h : (t :: rest).length < hdrLen t ∨ totalLen (t :: rest) ≠ (t :: rest).length) :
    validateTx (t :: rest) = .error (contentLengthFault (t :: rest).length 5) := by
  rw [validateTx, hrec, Bool.not_true, if_neg Bool.false_ne_true, if_pos h]

/-- A whole frame passes the validation. -/
theorem validateTx_of_wholeFrame {f : List Byte} (h : wholeFrame f = true) : validateTx f = .ok () := by
  obtain ⟨hrec, hhdr, htotal⟩ := wholeFrame_iff.mp h
  rcases validateTx_cases f with ⟨rfl, -⟩ | ⟨-, hbad, -⟩ | ⟨-, hlen, -⟩ | ⟨-, hok⟩
  · simp [wholeFrame] at h
  · rw [hrec] at hbad
    cases hbad
  · omega
  · exact hok

/-- The recognized type bytes (R90). -/
theorem isRecognized_iff {t : Byte} : isRecognized t = true ↔ t = 0xC1 ∨ t = 0xC2 ∨ t = 0xC3 ∨ t = 0xC4 := by
  simp [isRecognized, or_assoc]

/-- Settles O23: each check of R211 raises its fault before the frame is looked at any further. -/
theorem txValidation : Obligations.TxValidation := by
  refine fun s hwait => ⟨?empty, fun t rest h1 h2 h3 h4 => ?unrecognized,
    fun t rest ht hlen => ?wrongLength⟩
  case empty =>
    have hraise : validateTx [] = .error (contentLengthFault 0 5) := rfl
    exact exec_txFrame_of_validateTx_error hwait hraise
  case unrecognized =>
    have ⟨_, honTxf⟩ := illegalTypeByte s t rest h1 h2 h3 h4
    exact honTxf hwait
  case wrongLength =>
    exact exec_txFrame_of_validateTx_error hwait (validateTx_of_wrong_length (isRecognized_iff.mpr ht) hlen)

/-! ### Frames that pass unchanged (R221) -/

/-- A whole frame of a type below 0xC3 is enciphered to itself (R212, R221). -/
theorem encryptFrame_of_not_isCipher {f : List Byte} (h : wholeFrame f = true) (hc : isCipher (f.getD 0 0) = false)
    (v : Variant) (bank : KeyBank) (ctr : Byte) : encryptFrame v bank ctr f = .ok (f, ctr) := by
  simp only [encryptFrame, validateTx_of_wholeFrame h, hc, Bool.false_eq_true, if_false]

/-- R221 for a whole frame of `n` bytes and a type below 0xC3: as the wire frame `i` on a waiting path, in RXBUF, and
submitted on TXF. -/
theorem passes_unchanged {f : List Byte} (h : wholeFrame f = true) (hc : isCipher (f.getD 0 0) = false) {n : Nat}
    (hlen : f.length = n) {s : State} {i : Instr} (hwire : exec i s = .next (rxFrame f s)) :
    (RxWaiting s → s.outf = none → exec i s = .next (s.delivered f s.rxCtr n 0)) ∧
    (RxHolds s f → exec .rxProcess s = .next (s.delivered f s.rxCtr n 0)) ∧
    (TxWaiting s → exec (.txFrame f) s = .next { s with txout := f, resp := .done }) := by
  subst hlen
  have hdec := decryptFrame_of_not_isCipher hc s.variant s.rxk s.rxCtr s.lenient
  have henc := encryptFrame_of_not_isCipher h hc s.variant s.txk s.txCtr
  exact ⟨fun hwait houtf => by rw [hwire, rxFrame_of_decryptFrame_ok hwait houtf h hdec],
    fun hholds => congrArg _ (rxProcess_of_decryptFrame_ok hholds h hdec),
    fun hwait => exec_txFrame_of_encryptFrame_ok hwait henc⟩

/-- Settles O9: the frames of types 0xC1 and 0xC2 are whole frames that are not deciphered; every other type byte below
0xC3 is not recognized. -/
theorem passThroughBothWays : Obligations.PassThroughBothWays := by
  refine ⟨fun s content hlen => ?short, fun s content hlen => ?long, fun s t rest hbelow h1 h2 => ?illegal⟩
  case short =>
    rw [shortOf_eq_frameOf]
    exact passes_unchanged (wholeFrame_frameOf rfl hlen) rfl (frameOf_length 0xC1 content) rfl
  case long =>
    have hframe : longOf 0xC2 content = frameOf 0xC2 content := longOf_eq_frameOf rfl content
    have hwire : exec (.frameC2 (BitVec.ofNat 16 (3 + content.length)) content) s
        = .next (rxFrame (longOf 0xC2 content) s) := rfl
    rw [hframe] at hwire ⊢
    exact passes_unchanged (wholeFrame_frameOf rfl hlen) (by rw [getD_zero_frameOf]; rfl) (frameOf_length 0xC2 content)
      hwire
  case illegal =>
    have h3 : t ≠ 0xC3 := by rintro rfl; exact absurd hbelow (by decide)
    have h4 : t ≠ 0xC4 := by rintro rfl; exact absurd hbelow (by decide)
    exact illegalTypeByte s t rest h1 h2 h3 h4

end Sys2Proof.Machine

/-!
The enciphering of a content (43_stream_encryptor.md R212 to R214, R219): the chunks of a stream, the block of each
chunk, and what TX.FRAME can do with a cipher-qualifying frame.
-/

namespace Sys2Proof.Machine

/-! ### Chunks (R102) -/

/-- The chunks before the `ceil(a/b)`-th are those that begin inside the stream (R10). -/
theorem lt_ceilDiv_iff {a b k : Nat} (hb : 0 < b) : k < ceilDiv a b ↔ k * b < a := by
  rw [ceilDiv, ← Nat.succ_le_iff, Nat.le_div_iff_mul_le hb, Nat.succ_mul]
  omega

theorem le_ceilDiv_mul (a : Nat) {b : Nat} (hb : 0 < b) : a ≤ ceilDiv a b * b :=
  not_lt.mp fun h => lt_irrefl _ ((lt_ceilDiv_iff hb).mpr h)

@[simp] theorem chunks_length (size m : Nat) (s : List Byte) : (chunks size m s).length = m := by simp [chunks]

@[simp] theorem getElem_chunks (size m : Nat) (s : List Byte) (k : Nat) (h : k < (chunks size m s).length) :
    (chunks size m s)[k] = chunk size s k := by simp [chunks]

theorem chunk_length (size : Nat) (s : List Byte) (k : Nat) :
    (chunk size s k).length = min size (s.length - k * size) := by simp [chunk]

/-- The chunks after the first are those of the rest. -/
theorem chunks_succ (size m : Nat) (s : List Byte) :
    chunks size (m + 1) s = s.take size :: chunks size m (s.drop size) := by
  have hrest (k : Nat) : chunk size s (k + 1) = chunk size (s.drop size) k := by
    rw [chunk, chunk, List.drop_drop, Nat.succ_mul, Nat.add_comm]
  have hfirst : chunk size s 0 = s.take size := by simp [chunk]
  simp only [chunks, List.range_succ_eq_map, List.map_cons, List.map_map, hfirst]
  exact congrArg _ (List.map_congr_left fun k _ => hrest k)

/-- Enough chunks are the whole stream. -/
theorem flatten_chunks {size m : Nat} {s : List Byte} (h : s.length ≤ m * size) : (chunks size m s).flatten = s := by
  induction m generalizing s with
  | zero =>
    obtain rfl : s = [] := List.length_eq_zero_iff.mp (by omega)
    rfl
  | succ m ih =>
    rw [Nat.succ_mul] at h
    rw [chunks_succ, List.flatten_cons, ih (by rw [List.length_drop]; omega), List.take_append_drop]

/-- A sequence of blocks of one size is cut back into these blocks. -/
theorem chunks_flatten {size : Nat} {blocks : List (List Byte)} (h : ∀ c ∈ blocks, c.length = size) :
    chunks size blocks.length blocks.flatten = blocks := by
  induction blocks with
  | nil => rfl
  | cons c blocks ih =>
    obtain ⟨rfl, hrest⟩ := List.forall_mem_cons.mp h
    rw [List.length_cons, List.flatten_cons, chunks_succ, List.take_left, List.drop_left, ih hrest]

theorem flatten_length_of_forall {size : Nat} {blocks : List (List Byte)} (h : ∀ c ∈ blocks, c.length = size) :
    blocks.flatten.length = blocks.length * size := by
  rw [List.length_flatten, List.map_congr_left h, List.map_const', List.sum_replicate, smul_eq_mul]

/-- R219: every chunk but the last is full; the last is the rest, and is not empty. -/
theorem chunk_length_of_lt_ceilDiv {size : Nat} (hsize : 0 < size) (s : List Byte) {k : Nat}
    (hk : k < ceilDiv s.length size) :
    (chunk size s k).length
        = (if k + 1 < ceilDiv s.length size then size else s.length - (ceilDiv s.length size - 1) * size) ∧
      1 ≤ (chunk size s k).length ∧ (chunk size s k).length ≤ size := by
  have hbegins := (lt_ceilDiv_iff hsize).mp hk
  rw [chunk_length]
  refine ⟨?_, by omega, Nat.min_le_left ..⟩
  split
  · next hmore =>
    have hnext := (lt_ceilDiv_iff hsize).mp hmore
    rw [Nat.succ_mul] at hnext
    omega
  · next hlast =>
    have hcover := le_ceilDiv_mul s.length hsize
    have hk' : k = ceilDiv s.length size - 1 := by omega
    rw [show ceilDiv s.length size = k + 1 by omega, Nat.succ_mul] at hcover
    rw [← hk']
    omega

/-! ### The block of a chunk (R153, R214) -/

/-- What BLK.ENC gives for a padded chunk when the keys are usable (R153, R214). -/
def encBlock (v : Variant) (bank : KeyBank) (c : List Byte) : List Byte :=
  packAll v.slotCount (encRing (encKeys v bank) (paddedBlock v c)) ++
    [BitVec.ofNat 8 c.length ^^^ blockSizeXorKey ^^^ csum (paddedBlock v c) c.length, csum (paddedBlock v c) c.length]

theorem toNat_chunk_size {v : Variant} {c : List Byte} (hc : c.length ≤ v.blockCap) :
    (BitVec.ofNat 8 c.length).toNat = c.length := by
  have hsmall : v.blockCap ≤ 32 := by cases v <;> decide
  exact Nat.mod_eq_of_lt (by omega)

theorem paddedBlock_length {v : Variant} {c : List Byte} (hc : c.length ≤ v.blockCap) :
    (paddedBlock v c).length = v.blockCap := by
  rw [paddedBlock, List.length_append, zeros, List.length_replicate]
  omega

/-- The chunk is what the padding leaves in front. -/
theorem take_paddedBlock (v : Variant) (c : List Byte) : (paddedBlock v c).take c.length = c := List.take_left

/-- BLK.ENC of a padded chunk. -/
theorem blkEnc_paddedBlock {v : Variant} {bank : KeyBank} (hkeys : checkKeys (encKeys v bank) = .ok ()) {c : List Byte}
    (hc : c.length ≤ v.blockCap) :
    blkEnc v bank (paddedBlock v c) (BitVec.ofNat 8 c.length) = .ok (encBlock v bank c) := by
  rw [blkEnc_of_checkKeys_ok _ (by rwa [toNat_chunk_size hc]) hkeys, toNat_chunk_size hc, encBlock]

@[simp] theorem encBlock_length (v : Variant) (bank : KeyBank) (c : List Byte) :
    (encBlock v bank c).length = v.encBlockSize := by
  simp [encBlock, v.encBlockSize_eq]

/-- The trailer of a chunk's block gives the chunk's size (R219). -/
theorem trailerUsed_encBlock (v : Variant) (bank : KeyBank) (c : List Byte) :
    trailerUsed v (encBlock v bank c) = BitVec.ofNat 8 c.length := by
  have hregion : (packAll v.slotCount (encRing (encKeys v bank) (paddedBlock v c))).length = v.encBlockSize - 2 := by
    simp [v.encBlockSize_eq]
  obtain ⟨ht0, ht1⟩ := getD_trailer hregion
    (BitVec.ofNat 8 c.length ^^^ blockSizeXorKey ^^^ csum (paddedBlock v c) c.length)
    (csum (paddedBlock v c) c.length)
  rw [trailerUsed, encBlock, ht0, ht1]
  simp [BitVec.xor_assoc, blockSizeXorKey]

/-! ### The blocks of a stream (R212) -/

/-- The chunks that R212 cuts a logical stream into. -/
def txChunks (v : Variant) (s : List Byte) : List (List Byte) :=
  chunks v.blockCap (ceilDiv s.length v.blockCap) s

/-- The ciphertext blocks of a logical stream. -/
def encStream (v : Variant) (bank : KeyBank) (s : List Byte) : List (List Byte) :=
  (txChunks v s).map (encBlock v bank)

theorem txChunks_length_le {v : Variant} {s c : List Byte} (h : c ∈ txChunks v s) : c.length ≤ v.blockCap := by
  obtain ⟨k, -, rfl⟩ := List.mem_map.mp h
  exact List.length_take_le ..

theorem flatten_txChunks (v : Variant) (s : List Byte) : (txChunks v s).flatten = s :=
  flatten_chunks (le_ceilDiv_mul _ v.blockCap_pos)

theorem encStream_block_length {v : Variant} {bank : KeyBank} {s b : List Byte} (h : b ∈ encStream v bank s) :
    b.length = v.encBlockSize := by
  obtain ⟨c, -, rfl⟩ := List.mem_map.mp h
  exact encBlock_length ..

@[simp] theorem encStream_length (v : Variant) (bank : KeyBank) (s : List Byte) :
    (encStream v bank s).length = ceilDiv s.length v.blockCap := by simp [encStream, txChunks]

/-- The length law of the blocks (R219). -/
theorem flatten_encStream_length (v : Variant) (bank : KeyBank) (s : List Byte) :
    (encStream v bank s).flatten.length = ceilDiv s.length v.blockCap * v.encBlockSize := by
  rw [flatten_length_of_forall fun _ => encStream_block_length, encStream_length]

/-- Block `k` of the output is the block of chunk `k`. -/
theorem chunk_flatten_encStream {v : Variant} (bank : KeyBank) {s : List Byte} {k : Nat}
    (hk : k < ceilDiv s.length v.blockCap) :
    chunk v.encBlockSize (encStream v bank s).flatten k = encBlock v bank (chunk v.blockCap s k) := by
  have hblocks := chunks_flatten fun _ => encStream_block_length (v := v) (bank := bank) (s := s)
  have hsame := List.getElem_of_eq hblocks (i := k) (by simpa using hk)
  rw [getElem_chunks] at hsame
  rw [hsame]
  simp [encStream, txChunks]

/-- The block loop of R212 with usable keys. -/
theorem encBlocks_of_checkKeys_ok {v : Variant} {bank : KeyBank} (hkeys : checkKeys (encKeys v bank) = .ok ())
    {cs : List (List Byte)} (hcs : ∀ c ∈ cs, c.length ≤ v.blockCap) :
    encBlocks v bank cs = .ok (cs.map (encBlock v bank)).flatten := by
  induction cs with
  | nil => rfl
  | cons c cs ih =>
    obtain ⟨hc, hrest⟩ := List.forall_mem_cons.mp hcs
    simp only [encBlocks, blkEnc_paddedBlock hkeys hc, ih hrest, List.map_cons, List.flatten_cons]

/-! ### The logical stream (R102) -/

theorem Variant.usesCounter_iff (v : Variant) : v.usesCounter = true ↔ v = .new := by cases v <;> decide

theorem logicalStream_length (v : Variant) (ctr : Byte) (content : List Byte) :
    (logicalStream v ctr content).length = content.length + if v = .new then 1 else 0 := by
  cases v <;> rfl

theorem encipheredLen_eq (v : Variant) (ctr : Byte) (content : List Byte) :
    encipheredLen v content.length = 3 + ceilDiv (logicalStream v ctr content).length v.blockCap * v.encBlockSize := by
  cases v <;> rfl

/-! ### TX.FRAME on a cipher-qualifying frame -/

/-- The cipher-qualifying types among the recognized ones (R92). -/
theorem isCipher_of_cipherType {t : Byte} (ht : t = 0xC3 ∨ t = 0xC4) :
    isCipher t = true ∧ isRecognized t = true ∧ hdrLen t = 3 := by
  rcases ht with rfl | rfl <;> decide

/-- Everything the enciphering of a content can answer: too long (R213), a bad key (R152), or the frame of its blocks
with the counter advanced (R212). -/
theorem encryptContent_cases (v : Variant) (bank : KeyBank) (ctr : Byte) {t : Byte} (hlong : hdrLen t = 3)
    (content : List Byte) :
    (65535 < encipheredLen v content.length ∧ encryptContent v bank ctr t content
      = .error (contentLengthFault (encipheredLen v content.length) 2)) ∨
    (encipheredLen v content.length ≤ 65535 ∧
      ∃ x, checkKeys (encKeys v bank) = .error x ∧ encryptContent v bank ctr t content = .error x) ∨
    (encipheredLen v content.length ≤ 65535 ∧ checkKeys (encKeys v bank) = .ok () ∧
      encryptContent v bank ctr t content
        = .ok (frameOf t (encStream v bank (logicalStream v ctr content)).flatten, nextCounter v ctr)) := by
  have htotal := encipheredLen_eq v ctr content
  by_cases hlen : 65535 < encipheredLen v content.length
  · refine .inl ⟨hlen, ?_⟩
    rw [htotal] at hlen ⊢
    simp only [encryptContent, hlong, if_pos hlen]
  · have hfits : ¬65535 < 3 + ceilDiv (logicalStream v ctr content).length v.blockCap * v.encBlockSize := by
      rwa [← htotal]
    refine .inr ?_
    cases hkeys : checkKeys (encKeys v bank) with
    | error x => exact .inl ⟨not_lt.mp hlen, x, rfl, by simp only [encryptContent, hlong, if_neg hfits, hkeys]⟩
    | ok _ =>
      refine .inr ⟨not_lt.mp hlen, rfl, ?_⟩
      have hloop : encBlocks v bank (chunks v.blockCap _ (logicalStream v ctr content)) = _ :=
        encBlocks_of_checkKeys_ok hkeys fun _ => txChunks_length_le
      simp only [encryptContent, hlong, if_neg hfits, hkeys, hloop, frameOf, flatten_encStream_length]
      rfl

/-- TX.FRAME on a cipher-qualifying frame is the enciphering of its content. -/
theorem encryptFrame_frameOf (v : Variant) (bank : KeyBank) (ctr : Byte) {t : Byte} (ht : t = 0xC3 ∨ t = 0xC4)
    {content : List Byte} (hfit : content.length ≤ 65532) :
    encryptFrame v bank ctr (frameOf t content) = encryptContent v bank ctr t content := by
  obtain ⟨hc, hrec, hlong⟩ := isCipher_of_cipherType ht
  have hwhole : wholeFrame (frameOf t content) = true := wholeFrame_frameOf hrec (by rwa [maxContent, hlong])
  simp only [encryptFrame, validateTx_of_wholeFrame hwhole, getD_zero_frameOf, drop_hdrLen_frameOf, hc, if_true]

/-- Everything an enabled TX.FRAME can do with a cipher-qualifying frame (R212, R213, R327). -/
theorem exec_txFrame_cipher_cases {s : State} (hwait : TxWaiting s) {t : Byte} (ht : t = 0xC3 ∨ t = 0xC4)
    {content : List Byte} (hfit : content.length ≤ 65532) :
    (65535 < encipheredLen s.variant content.length ∧ exec (.txFrame (frameOf t content)) s
      = .next (s.haltedWith 5 1 (BitVec.ofNat 32 (encipheredLen s.variant content.length)) 2 s.txPos)) ∨
    (encipheredLen s.variant content.length ≤ 65535 ∧ ∃ x, checkKeys (encKeys s.variant s.txk) = .error x ∧
      exec (.txFrame (frameOf t content)) s = .next (s.faulted .tx x)) ∨
    (encipheredLen s.variant content.length ≤ 65535 ∧ checkKeys (encKeys s.variant s.txk) = .ok () ∧
      exec (.txFrame (frameOf t content)) s = .next { s with
        txout := frameOf t (encStream s.variant s.txk (logicalStream s.variant s.txCtr content)).flatten
        txCtr := nextCounter s.variant s.txCtr
        resp := .done }) := by
  obtain ⟨-, -, hlong⟩ := isCipher_of_cipherType ht
  have henc := encryptFrame_frameOf s.variant s.txk s.txCtr ht hfit
  rcases encryptContent_cases s.variant s.txk s.txCtr hlong content with
    ⟨hlen, h⟩ | ⟨hlen, x, hkeys, h⟩ | ⟨hlen, hkeys, h⟩
  · exact .inl ⟨hlen, exec_txFrame_halts hwait (henc.trans h)⟩
  · exact .inr (.inl ⟨hlen, x, hkeys,
      exec_txFrame_of_encryptFrame_error (txfReady_iff.mpr hwait) (henc.trans h)⟩)
  · exact .inr (.inr ⟨hlen, hkeys, exec_txFrame_of_encryptFrame_ok hwait (henc.trans h)⟩)

/-! ### The obligations -/

/-- Settles O22: without a fault TXOUT holds the block of each chunk behind the header, and the trailer of a block gives
its chunk's size. -/
theorem txLengthLaw : Obligations.TxLengthLaw := by
  intro s u t content n nb ht hwait hfit hexec hrun hn hnb
  obtain ⟨-, -, hlong⟩ := isCipher_of_cipherType ht
  rw [longOf_eq_frameOf hlong] at hexec
  rcases exec_txFrame_cipher_cases hwait ht hfit with ⟨-, h⟩ | ⟨-, x, -, h⟩ | ⟨-, -, h⟩
  all_goals
    rw [h] at hexec
    cases hexec
  · cases hrun
  · cases hrun
  rw [← logicalStream_length s.variant s.txCtr] at hn
  rw [hn] at hnb ⊢
  change nb = ceilDiv (logicalStream s.variant s.txCtr content).length s.variant.blockCap at hnb
  subst hnb
  generalize logicalStream s.variant s.txCtr content = stream
  refine ⟨by rw [frameOf_length, hlong, flatten_encStream_length], fun k hk => ⟨_, rfl, ?_⟩⟩
  have hblock : ((frameOf t (encStream s.variant s.txk stream).flatten).drop (3 + k * s.variant.encBlockSize)).take
      s.variant.encBlockSize = encBlock s.variant s.txk (chunk s.variant.blockCap stream k) := by
    have hcontent := drop_hdrLen_frameOf t (encStream s.variant s.txk stream).flatten
    rw [hlong] at hcontent
    rw [← List.drop_drop, hcontent]
    exact chunk_flatten_encStream s.txk hk
  obtain ⟨hsize, hpos, hle⟩ := chunk_length_of_lt_ceilDiv s.variant.blockCap_pos stream hk
  rw [hblock, trailerUsed_encBlock, toNat_chunk_size hle]
  exact ⟨hsize, hpos, hle⟩

theorem encipheredLen_new (n : Nat) : encipheredLen .new n = 3 + (n + 8) / 8 * 11 := rfl

theorem encipheredLen_old (n : Nat) : encipheredLen .old n = 3 + (n + 31) / 32 * 38 := rfl

/-- Settles O24: the enciphered length passes 65535 exactly above the two contents named, and it is checked before the
keys are. -/
theorem txOversized : Obligations.TxOversized := by
  intro s t content ht hwait hfit
  obtain ⟨-, -, hlong⟩ := isCipher_of_cipherType ht
  rw [longOf_eq_frameOf hlong]
  have hnew := encipheredLen_new content.length
  have hold := encipheredLen_old content.length
  have hcases := exec_txFrame_cipher_cases hwait ht hfit
  have hhalts (h : 65535 < encipheredLen s.variant content.length) : exec (.txFrame (frameOf t content)) s
      = .next (s.haltedWith 5 1 (BitVec.ofNat 32 (encipheredLen s.variant content.length)) 2 s.txPos) := by
    rcases hcases with ⟨-, hexec⟩ | ⟨hle, -⟩ | ⟨hle, -⟩
    · exact hexec
    · omega
    · omega
  have hsends (hkeys : KeysUsable s.variant s.txk) (h : encipheredLen s.variant content.length ≤ 65535) :
      ∃ u, exec (.txFrame (frameOf t content)) s = .next u ∧ u.fault = false := by
    have hok : checkKeys (encKeys s.variant s.txk) = .ok () := checkKeys_slotKeys_of_usable _ _ hkeys
    obtain ⟨-, hrun, -⟩ := hwait
    rcases hcases with ⟨hlt, -⟩ | ⟨-, x, herr, -⟩ | ⟨-, -, hexec⟩
    · omega
    · rw [hok] at herr
      cases herr
    · exact ⟨_, hexec, hrun⟩
  refine ⟨fun hv hlen => ?newLong, fun hv hlen => ?oldLong, fun hkeys =>
    ⟨fun hv hlen => ?newFits, fun hv hlen => ?oldFits⟩⟩
  case newLong =>
    rw [hv, hnew] at hhalts
    exact ⟨by omega, by omega, hhalts (by omega)⟩
  case oldLong =>
    rw [hv, hold] at hhalts
    exact ⟨by omega, hhalts (by omega)⟩
  case newFits => exact hsends hkeys (by rw [hv, hnew]; omega)
  case oldFits => exact hsends hkeys (by rw [hv, hold]; omega)

end Sys2Proof.Machine

/-!
The deciphering of a content without a fault (44_stream_decryptor.md R231) and the round trip of a frame
(43_stream_encryptor.md R215).
-/

namespace Sys2Proof.Machine

/-! ### The block loop of R231 -/

/-- The counter is checked at block 0 of variant `new` only (R233, R236). -/
theorem checkCounter_ok {v : Variant} {ctr : Byte} {k : Nat} {d : Decoded}
    (h : v = .new → k = 0 → d.usedLen ≠ 0 ∧ d.plain.getD 0 0 = ctr) : checkCounter v ctr k d = .ok () := by
  unfold checkCounter
  split
  · next hfirst =>
    obtain ⟨hcounter, hk⟩ := hfirst
    obtain ⟨hused, hbyte⟩ := h (v.usesCounter_iff.mp hcounter) hk
    rw [if_neg hused, if_neg (not_not.mpr hbyte)]
  · rfl

/-- The block loop when every block decodes: the recovered bytes joined, and the mismatches counted (R231, R237). -/
theorem decBlocks_ok {v : Variant} {bank : KeyBank} {ctr : Byte} {lenient : Bool} {blocks : List (List Byte)}
    {ds : List Decoded} (h : List.Forall₂ (fun c d => blkDec v bank c lenient = .ok d) blocks ds) {k : Nat}
    (hctr : v = .new → k = 0 → ∀ d ∈ ds.head?, d.usedLen ≠ 0 ∧ d.plain.getD 0 0 = ctr) :
    decBlocks v bank ctr lenient k blocks
      = .ok (ds.flatMap fun d => d.plain.take d.usedLen.toNat, ds.countP (·.warned)) := by
  induction h generalizing k with
  | nil => rfl
  | @cons c d blocks ds hdec _ ih =>
    have hcheck : checkCounter v ctr k d = .ok () := checkCounter_ok fun hv hk => hctr hv hk d rfl
    have hrest := ih (k := k + 1) fun _ hk => absurd hk (Nat.succ_ne_zero k)
    simp only [decBlocks, hdec, hcheck, hrest, List.flatMap_cons, List.countP_cons]
    rw [Nat.add_comm]

/-! ### A frame whose blocks decode -/

theorem nextCounter_rxCtr (s : State) : nextCounter s.variant s.rxCtr = s.nextRxCtr := by
  rw [nextCounter_eq, State.nextRxCtr]
  cases s.variant <;> rfl

/-- R231 without a fault: the recovered bytes without the counter byte, under a rewritten header. -/
theorem decryptFrame_of_blocksOk {s : State} {t : Byte} (ht : t = 0xC3 ∨ t = 0xC4) {blocks : List (List Byte)}
    {ds : List Decoded} (hkeys : checkKeys (decKeys s.variant s.rxk) = .ok ()) (hok : BlocksOk s blocks ds)
    (hcounter : s.variant = .new → ds ≠ []) :
    decryptFrame s.variant s.rxk s.rxCtr s.lenient (frameOf t blocks.flatten)
      = .ok (frameOf t ((ds.flatMap fun d => d.plain.take d.usedLen.toNat).drop (if s.variant = .new then 1 else 0)),
          s.nextRxCtr, ds.countP (·.warned)) := by
  obtain ⟨hblocks, hfirst⟩ := hok
  obtain ⟨hsizes, hdecode⟩ := (List.forall₂_and_left _ _).mp hblocks
  obtain ⟨hc, -, -⟩ := isCipher_of_cipherType ht
  have hlen := flatten_length_of_forall hsizes
  have hloop := decBlocks_ok hdecode (k := 0) fun hv _ => hfirst hv
  have hmod : ¬blocks.flatten.length % s.variant.encBlockSize ≠ 0 := by
    rw [hlen, Nat.mul_mod_left]
    exact fun h => h rfl
  have hcount : blocks.flatten.length / s.variant.encBlockSize = blocks.length := by
    rw [hlen, Nat.mul_div_cancel _ s.variant.encBlockSize_pos]
  have hsome : ¬(s.variant.usesCounter = true ∧ blocks.length = 0) := by
    rintro ⟨hv, hzero⟩
    exact hcounter (s.variant.usesCounter_iff.mp hv) (List.length_eq_zero_iff.mp (hblocks.length_eq ▸ hzero))
  simp only [decryptFrame, getD_zero_frameOf, drop_hdrLen_frameOf, hc, if_true, decryptContent, if_neg hmod, hcount,
    if_neg hsome, hkeys, chunks_flatten hsizes, hloop, nextCounter_rxCtr]
  cases s.variant <;> rfl

/-! ### The round trip of a stream -/

/-- What BLK.DEC gives for the block of a chunk under a matching bank (R155). -/
def decodedChunk (v : Variant) (c : List Byte) : Decoded :=
  ⟨paddedBlock v c, BitVec.ofNat 8 c.length, false⟩

theorem blkDec_encBlock {v : Variant} {e d : KeyBank} (hpair : MatchingPair v e d) {c : List Byte}
    (hc : c.length ≤ v.blockCap) (lenient : Bool) :
    blkDec v d (encBlock v e c) lenient = .ok (decodedChunk v c) := by
  obtain ⟨out, henc, hdec⟩ := blockRoundTrip v e d (paddedBlock v c) (BitVec.ofNat 8 c.length) lenient hpair
    (paddedBlock_length hc) (by rwa [toNat_chunk_size hc])
  obtain ⟨hkeys, -⟩ := checkKeys_of_matchingPair hpair
  rw [blkEnc_paddedBlock hkeys hc] at henc
  cases henc
  exact hdec

/-- The bytes recovered from the blocks of a stream are the stream. -/
theorem flatMap_decodedChunk (v : Variant) (s : List Byte) :
    ((txChunks v s).map (decodedChunk v)).flatMap (fun d => d.plain.take d.usedLen.toNat) = s := by
  have hchunk : ∀ c ∈ txChunks v s, (paddedBlock v c).take (BitVec.ofNat 8 c.length).toNat = c := fun c hc => by
    rw [toNat_chunk_size (txChunks_length_le hc), take_paddedBlock]
  rw [List.flatMap_map, List.flatMap_def]
  exact (congrArg _ ((List.map_congr_left hchunk).trans (List.map_id _))).trans (flatten_txChunks v s)

/-- In variant `new` there is a first chunk, and it begins with the counter (R102). -/
theorem head?_txChunks_of_new {v : Variant} (hv : v = .new) (ctr : Byte) (content : List Byte) :
    (txChunks v (logicalStream v ctr content)).head? = some (ctr :: content.take (v.blockCap - 1)) := by
  have hstream : logicalStream v ctr content = ctr :: content := by rw [hv]; rfl
  have hsome : 0 < ceilDiv (ctr :: content).length v.blockCap := (lt_ceilDiv_iff v.blockCap_pos).mpr (by simp)
  obtain ⟨m, hm⟩ := Nat.exists_eq_add_one_of_ne_zero hsome.ne'
  rw [hstream, txChunks, hm, chunks_succ, List.head?_cons, List.take_cons v.blockCap_pos]

/-- The blocks of a logical stream decode on the RX path of `b` when its bank matches and its counter is the one in the
stream (R215). -/
theorem blocksOk_encStream {b : State} {e : KeyBank} (hpair : MatchingPair b.variant e b.rxk) (content : List Byte) :
    BlocksOk b (encStream b.variant e (logicalStream b.variant b.rxCtr content))
      ((txChunks b.variant (logicalStream b.variant b.rxCtr content)).map (decodedChunk b.variant)) := by
  constructor
  · rw [encStream, List.forall₂_map_left_iff, List.forall₂_map_right_iff, List.forall₂_same]
    exact fun c hc => ⟨encBlock_length .., blkDec_encBlock hpair (txChunks_length_le hc) b.lenient⟩
  · intro hv d hd
    have hfirst := head?_txChunks_of_new hv b.rxCtr content
    have hsize := toNat_chunk_size (txChunks_length_le (List.mem_of_mem_head? hfirst))
    rw [List.head?_map, hfirst] at hd
    cases hd
    refine ⟨fun hzero => ?_, rfl⟩
    have hempty : (decodedChunk b.variant (b.rxCtr :: content.take (b.variant.blockCap - 1))).usedLen.toNat = 0 := by
      rw [hzero]
      rfl
    exact absurd (hsize.symm.trans hempty) (Nat.succ_ne_zero _)

/-- The deciphering of an enciphered content, in the state of the receiver (R215). -/
theorem decryptFrame_encStream {b : State} {e : KeyBank} (hpair : MatchingPair b.variant e b.rxk) {t : Byte}
    (ht : t = 0xC3 ∨ t = 0xC4) (content : List Byte) :
    decryptFrame b.variant b.rxk b.rxCtr b.lenient
        (frameOf t (encStream b.variant e (logicalStream b.variant b.rxCtr content)).flatten)
      = .ok (frameOf t content, b.nextRxCtr, 0) := by
  obtain ⟨-, hkeys⟩ := checkKeys_of_matchingPair hpair
  have hcounter : b.variant = .new →
      (txChunks b.variant (logicalStream b.variant b.rxCtr content)).map (decodedChunk b.variant) ≠ [] := by
    intro hv hnil
    have hfirst := head?_txChunks_of_new hv b.rxCtr content
    rw [List.map_eq_nil_iff.mp hnil] at hfirst
    cases hfirst
  have hplain : (logicalStream b.variant b.rxCtr content).drop (if b.variant = .new then 1 else 0) = content := by
    cases b.variant <;> rfl
  have hwarns : ((txChunks b.variant (logicalStream b.variant b.rxCtr content)).map (decodedChunk b.variant)).countP
      (·.warned) = 0 := by
    simp [List.countP_eq_zero, decodedChunk]
  rw [decryptFrame_of_blocksOk ht hkeys (blocksOk_encStream hpair content) hcounter, flatMap_decodedChunk, hplain,
    hwarns]

/-! ### The round trip of a frame -/

/-- A frame that can be sent: whole, and either not enciphered or short enough once it is. -/
theorem sendable_cases {v : Variant} {f : List Byte} (h : sendable v f = true) :
    wholeFrame f = true ∧ (isCipher (f.getD 0 0) = false ∨
      ∃ t content, (t = 0xC3 ∨ t = 0xC4) ∧ f = frameOf t content ∧ content.length ≤ 65532 ∧
        encipheredLen v content.length ≤ 65535) := by
  simp only [sendable, Bool.and_eq_true, Bool.or_eq_true, Bool.not_eq_true', decide_eq_true_eq] at h
  obtain ⟨hwhole, hkind⟩ := h
  refine ⟨hwhole, ?_⟩
  cases hc : isCipher (f.getD 0 0) with
  | false => exact .inl rfl
  | true =>
    have hlen : encipheredLen v (f.length - 3) ≤ 65535 := hkind.resolve_left (by rw [hc]; decide)
    obtain ⟨hrec, hhdr, htotal⟩ := wholeFrame_iff.mp hwhole
    have ht : f.getD 0 0 = 0xC3 ∨ f.getD 0 0 = 0xC4 := by
      rcases isRecognized_iff.mp hrec with h1 | h2 | h34
      · rw [h1] at hc; exact absurd hc (by decide)
      · rw [h2] at hc; exact absurd hc (by decide)
      · exact h34
    obtain ⟨-, -, hlong⟩ := isCipher_of_cipherType ht
    have hframe := frameOf_of_wholeFrame hwhole
    have hmax : totalLen f ≤ 65535 := totalLen_le_rxbufCap f
    rw [hlong] at hframe
    exact .inr ⟨_, _, ht, hframe.symm, by rw [List.length_drop]; omega, by rwa [List.length_drop]⟩

/-- Settles O59: a frame below type 0xC3 passes both paths unchanged; another is sent as the blocks of its logical
stream, which decode under the matching bank to that stream. -/
theorem frameRoundTrip : Obligations.FrameRoundTrip := by
  intro a b f hwait hsend hvar hpair hctr
  obtain ⟨hwhole, hc | ⟨t, content, ht, rfl, hfit, hlen⟩⟩ := sendable_cases hsend
  · have henc := encryptFrame_of_not_isCipher hwhole hc a.variant a.txk a.txCtr
    have hdec := decryptFrame_of_not_isCipher hc b.variant b.rxk b.rxCtr b.lenient
    have ⟨_, hrun, _, _⟩ := hwait
    refine ⟨_, exec_txFrame_of_encryptFrame_ok hwait henc, hrun, fun hholds => ?_⟩
    rw [← hctr]
    exact congrArg _ (rxProcess_of_decryptFrame_ok hholds hwhole hdec)
  · obtain ⟨hkeys, -⟩ := checkKeys_of_matchingPair hpair
    obtain ⟨-, hrec, hlong⟩ := isCipher_of_cipherType ht
    have hsent : exec (.txFrame (frameOf t content)) a = .next { a with
        txout := frameOf t (encStream a.variant a.txk (logicalStream a.variant a.txCtr content)).flatten
        txCtr := nextCounter a.variant a.txCtr
        resp := .done } := by
      rcases exec_txFrame_cipher_cases hwait ht hfit with ⟨hlt, -⟩ | ⟨-, x, herr, -⟩ | ⟨-, -, hexec⟩
      · omega
      · rw [hkeys] at herr
        cases herr
      · exact hexec
    have ⟨_, hrun, _, _⟩ := hwait
    refine ⟨_, hsent, hrun, fun hholds => ?_⟩
    rw [← hvar] at hpair hlen
    rw [← hvar, ← hctr] at hholds ⊢
    have hwire : wholeFrame
        (frameOf t (encStream b.variant a.txk (logicalStream b.variant b.rxCtr content)).flatten) = true := by
      refine wholeFrame_frameOf hrec ?_
      rw [encipheredLen_eq b.variant b.rxCtr, ← flatten_encStream_length b.variant a.txk] at hlen
      rw [maxContent, hlong, if_neg (by decide)]
      omega
    rw [nextCounter_rxCtr]
    exact congrArg _ (rxProcess_of_decryptFrame_ok hholds hwire (decryptFrame_encStream hpair ht content))

end Sys2Proof.Machine

/-!
The faults of RX.PROCESS on a cipher-qualifying frame (44_stream_decryptor.md R232 to R236): what the deciphering of a
content raises, by the first check that fails, and the halted state it leads to.
-/

namespace Sys2Proof.Machine

/-! ### RX.PROCESS by what the deciphering answers -/

/-- RX.PROCESS of a whole frame whose deciphering raises, the halted state written out (R231, R330). -/
theorem rxProcess_halts {s : State} {f : List Byte} {x : Raised} (hholds : RxHolds s f) (h : wholeFrame f = true)
    (hdec : decryptFrame s.variant s.rxk s.rxCtr s.lenient f = .error x) :
    rxProcess s = s.haltedWith (x.cause.code.setWidth 32) 0 x.info0 x.info1 s.rxPos := by
  have hready := rxProcessReady_of_wholeFrame hholds h
  obtain ⟨-, -, -, rfl⟩ := hholds
  rw [rxProcess, if_pos hready, hdec]
  exact faulted_rx_eq s x

/-- The same for a whole frame that arrives on a waiting path. -/
theorem rxFrame_halts {s : State} {f : List Byte} {x : Raised} (hwait : RxWaiting s) (houtf : s.outf = none)
    (h : wholeFrame f = true) (hdec : decryptFrame s.variant s.rxk s.rxCtr s.lenient f = .error x) :
    rxFrame f s = s.haltedWith (x.cause.code.setWidth 32) 0 x.info0 x.info1 s.rxPos := by
  have ⟨hen, hfault, _, _⟩ := hwait
  rw [rxFrame_of_wholeFrame hwait h, rxProcess_halts (s := s.holding f) ⟨hen, hfault, houtf, rfl⟩ h hdec]
  rfl

theorem cipherType_of_cipherClass {t : Byte} {mk : Half → List Byte → Instr} (hclass : CipherClass t mk) :
    t = 0xC3 ∨ t = 0xC4 := hclass.imp And.left And.left

/-- A wire frame of a cipher-qualifying class is its bytes on RXB (R189, R190). -/
theorem exec_cipherClass {t : Byte} {mk : Half → List Byte → Instr} (hclass : CipherClass t mk) (len : Half)
    (content : List Byte) (s : State) : exec (mk len content) s = .next (rxFrame (longFrame t len content) s) := by
  rcases hclass with ⟨rfl, rfl⟩ | ⟨rfl, rfl⟩ <;> rfl

/-- A content that fits the length field makes a whole frame of either cipher-qualifying type (R94). -/
theorem wholeFrame_frameOf_cipherType {t : Byte} (ht : t = 0xC3 ∨ t = 0xC4) {e : List Byte}
    (hfit : e.length ≤ 65532) : wholeFrame (frameOf t e) = true := by
  obtain ⟨-, hrec, hlong⟩ := isCipher_of_cipherType ht
  exact wholeFrame_frameOf hrec (by rwa [maxContent, hlong])

/-- Both ways a frame can reach RX.PROCESS, in terms of the frame of its content. -/
theorem endsIn_of_frameOf {s u : State} {t : Byte} {mk : Half → List Byte → Instr} (hclass : CipherClass t mk)
    {e : List Byte} (hassembled : RxHolds s (frameOf t e) → rxProcess s = u)
    (hwire : RxWaiting s → s.outf = none → rxFrame (frameOf t e) s = u) : EndsIn s t mk e u := by
  obtain ⟨-, -, hlong⟩ := isCipher_of_cipherType (cipherType_of_cipherClass hclass)
  have hframe := longOf_eq_frameOf hlong e
  refine ⟨fun hholds => congrArg _ (hassembled (hframe ▸ hholds)), fun hwait houtf => ?_⟩
  rw [exec_cipherClass hclass, ← hwire hwait houtf, ← hframe]
  rfl

/-- A cipher-qualifying frame whose deciphering raises halts the core (R231, R330). -/
theorem endsIn_halted {s : State} {t : Byte} {mk : Half → List Byte → Instr} (hclass : CipherClass t mk)
    {e : List Byte} (hfit : e.length ≤ 65532) {x : Raised}
    (hdec : decryptFrame s.variant s.rxk s.rxCtr s.lenient (frameOf t e) = .error x) :
    EndsIn s t mk e (s.haltedWith (x.cause.code.setWidth 32) 0 x.info0 x.info1 s.rxPos) := by
  have hwhole := wholeFrame_frameOf_cipherType (cipherType_of_cipherClass hclass) hfit
  exact endsIn_of_frameOf hclass (fun hholds => rxProcess_halts hholds hwhole hdec)
    fun hwait houtf => rxFrame_halts hwait houtf hwhole hdec

/-- A cipher-qualifying frame that is deciphered is delivered (R231). -/
theorem endsIn_delivered {s : State} {t : Byte} {mk : Half → List Byte → Instr} (hclass : CipherClass t mk)
    {e g : List Byte} (hfit : e.length ≤ 65532) {ctr : Byte} {warns : Nat}
    (hdec : decryptFrame s.variant s.rxk s.rxCtr s.lenient (frameOf t e) = .ok (g, ctr, warns)) :
    EndsIn s t mk e (s.delivered g ctr (3 + e.length) warns) := by
  have ht := cipherType_of_cipherClass hclass
  have hwhole := wholeFrame_frameOf_cipherType ht hfit
  obtain ⟨-, -, hlong⟩ := isCipher_of_cipherType ht
  rw [← hlong, ← frameOf_length]
  exact endsIn_of_frameOf hclass (fun hholds => rxProcess_of_decryptFrame_ok hholds hwhole hdec)
    fun hwait houtf => rxFrame_of_decryptFrame_ok hwait houtf hwhole hdec

/-! ### The checks before the block loop (R232, R233) -/

/-- RX.PROCESS on a cipher-qualifying frame is the deciphering of its content (R231). -/
theorem decryptFrame_frameOf {t : Byte} (ht : t = 0xC3 ∨ t = 0xC4) (v : Variant) (bank : KeyBank) (ctr : Byte)
    (lenient : Bool) (e : List Byte) :
    decryptFrame v bank ctr lenient (frameOf t e) = decryptContent v bank ctr lenient t e := by
  obtain ⟨hc, -, -⟩ := isCipher_of_cipherType ht
  simp only [decryptFrame, getD_zero_frameOf, drop_hdrLen_frameOf, hc, if_true]

/-- R232: the length is checked first. -/
theorem decryptContent_of_not_multiple {v : Variant} {e : List Byte} (h : e.length % v.encBlockSize ≠ 0)
    (bank : KeyBank) (ctr : Byte) (lenient : Bool) (t : Byte) :
    decryptContent v bank ctr lenient t e = .error (contentLengthFault e.length 1) := by
  rw [decryptContent, if_pos h]

/-- R233: without a block there is no counter byte, and the keys are not looked at. -/
theorem decryptContent_new_nil (bank : KeyBank) (ctr : Byte) (lenient : Bool) (t : Byte) :
    decryptContent .new bank ctr lenient t [] = .error (contentLengthFault 0 4) := rfl

/-! ### The checks of one block (R234, R236) -/

/-- A block that decodes was decoded with usable keys (R152). -/
theorem checkKeys_of_blkDec_ok {v : Variant} {bank : KeyBank} {c : List Byte} {lenient : Bool} {d : Decoded}
    (h : blkDec v bank c lenient = .ok d) : checkKeys (decKeys v bank) = .ok () := by
  rcases blkDec_cases v bank c lenient with ⟨x, -, herr⟩ | ⟨hkeys, -⟩
  · rw [h] at herr
    cases herr
  · exact hkeys

/-- A block that declares more bytes than it holds is refused, whatever the mode (R154, R234). -/
theorem blkDec_of_blockCap_lt {v : Variant} {bank : KeyBank} (hkeys : checkKeys (decKeys v bank) = .ok ())
    {c : List Byte} (h : v.blockCap < (trailerUsed v c).toNat) (lenient : Bool) :
    blkDec v bank c lenient = .error ⟨.invalidBlockSize, (trailerUsed v c).setWidth 32, 0⟩ := by
  rw [blkDec_of_checkKeys_ok c lenient hkeys, checkTrailer_eq (xor_trailer v c), if_pos h]

/-- R233: the first block holds no byte. -/
theorem checkCounter_of_empty {ctr : Byte} {d : Decoded} (h : d.usedLen = 0) :
    checkCounter .new ctr 0 d = .error (contentLengthFault 0 4) := by
  rw [checkCounter, if_pos ⟨rfl, rfl⟩, if_pos h]

/-- R236: the first byte is not the expected counter. -/
theorem checkCounter_of_mismatch {ctr : Byte} {d : Decoded} (hused : d.usedLen ≠ 0) (h : d.plain.getD 0 0 ≠ ctr) :
    checkCounter .new ctr 0 d
      = .error ⟨.invalidPacketCounter, (ctr.setWidth 32 <<< 8) ||| (d.plain.getD 0 0).setWidth 32, 0⟩ := by
  rw [checkCounter, if_pos ⟨rfl, rfl⟩, if_neg hused, if_pos h, setWidth_append_bytes]

/-! ### The block loop up to the first fault -/

/-- A fault of BLK.DEC ends the loop, with the index of its block (R234, R235). -/
theorem decBlocks_cons_of_blkDec_error {v : Variant} {bank : KeyBank} {lenient : Bool} {c : List Byte} {x : Raised}
    (h : blkDec v bank c lenient = .error x) (ctr : Byte) (k : Nat) (cs : List (List Byte)) :
    decBlocks v bank ctr lenient k (c :: cs) = .error (x.atBlock k) := by
  rw [decBlocks, h]

/-- A fault of the counter check ends the loop, as it is (R233, R236). -/
theorem decBlocks_cons_of_checkCounter_error {v : Variant} {bank : KeyBank} {lenient : Bool} {c : List Byte}
    {d : Decoded} {ctr : Byte} {k : Nat} {x : Raised} (hdec : blkDec v bank c lenient = .ok d)
    (h : checkCounter v ctr k d = .error x) (cs : List (List Byte)) :
    decBlocks v bank ctr lenient k (c :: cs) = .error x := by
  simp only [decBlocks, hdec, h]

/-- A fault after blocks that decode is the fault of the loop. -/
theorem decBlocks_append_of_error {v : Variant} {bank : KeyBank} {ctr : Byte} {lenient : Bool}
    {pre : List (List Byte)} {ds : List Decoded}
    (hpre : List.Forall₂ (fun c d => blkDec v bank c lenient = .ok d) pre ds)
    {k : Nat} (hctr : v = .new → k = 0 → ∀ d ∈ ds.head?, d.usedLen ≠ 0 ∧ d.plain.getD 0 0 = ctr)
    {cs : List (List Byte)} {x : Raised} (h : decBlocks v bank ctr lenient (k + pre.length) cs = .error x) :
    decBlocks v bank ctr lenient k (pre ++ cs) = .error x := by
  induction hpre generalizing k with
  | nil => exact h
  | @cons c d pre ds hdec _ ih =>
    have hcheck : checkCounter v ctr k d = .ok () := checkCounter_ok fun hv hk => hctr hv hk d rfl
    have hrest : decBlocks v bank ctr lenient (k + 1) (pre ++ cs) = .error x :=
      ih (fun _ hk => absurd hk (Nat.succ_ne_zero k)) (by rwa [Nat.add_right_comm])
    simp only [List.cons_append, decBlocks, hdec, hcheck, hrest]

/-! ### The fault of the loop as the fault of the frame -/

/-- With the length and the keys right, a fault of the block loop is the fault of the frame (R231). -/
theorem decryptFrame_of_decBlocks_error {v : Variant} {bank : KeyBank} {ctr : Byte} {lenient : Bool} {t : Byte}
    (ht : t = 0xC3 ∨ t = 0xC4) {blocks : List (List Byte)} {x : Raised} (hkeys : checkKeys (decKeys v bank) = .ok ())
    (hsizes : ∀ c ∈ blocks, c.length = v.encBlockSize) (hloop : decBlocks v bank ctr lenient 0 blocks = .error x) :
    decryptFrame v bank ctr lenient (frameOf t blocks.flatten) = .error x := by
  have hlen := flatten_length_of_forall hsizes
  have hmod : ¬blocks.flatten.length % v.encBlockSize ≠ 0 := by
    rw [hlen, Nat.mul_mod_left]
    exact fun h => h rfl
  have hcount : blocks.flatten.length / v.encBlockSize = blocks.length := by
    rw [hlen, Nat.mul_div_cancel _ v.encBlockSize_pos]
  have hsome : ¬(v.usesCounter = true ∧ blocks.length = 0) := by
    rintro ⟨-, hzero⟩
    obtain rfl := List.length_eq_zero_iff.mp hzero
    cases hloop
  rw [decryptFrame_frameOf ht]
  simp only [decryptContent, if_neg hmod, hcount, if_neg hsome, hkeys, chunks_flatten hsizes, hloop]

/-- A content of whole blocks is these blocks joined. -/
theorem exists_blocks {size : Nat} {e : List Byte} (h : e.length % size = 0) :
    ∃ blocks : List (List Byte), (∀ c ∈ blocks, c.length = size) ∧ blocks.flatten = e := by
  have hlen : e.length = e.length / size * size := (Nat.div_mul_cancel (Nat.dvd_of_mod_eq_zero h)).symm
  refine ⟨chunks size (e.length / size) e, fun c hc => ?_, flatten_chunks hlen.le⟩
  obtain ⟨k, hk, rfl⟩ := List.mem_iff_getElem.mp hc
  rw [chunks_length] at hk
  have hfull : (k + 1) * size ≤ e.length / size * size := Nat.mul_le_mul_right size hk
  rw [Nat.succ_mul] at hfull
  rw [getElem_chunks, chunk_length]
  omega

/-- In variant `new` a fault of the counter check on the first block is the fault of the frame (R233, R236). -/
theorem decryptFrame_new_of_checkCounter_error {bank : KeyBank} {ctr : Byte} {lenient : Bool} {t : Byte}
    (ht : t = 0xC3 ∨ t = 0xC4) {c rest : List Byte} {d : Decoded} {x : Raised} (hc : c.length = 11)
    (hrest : rest.length % 11 = 0) (hdec : blkDec .new bank c lenient = .ok d)
    (h : checkCounter .new ctr 0 d = .error x) :
    decryptFrame .new bank ctr lenient (frameOf t (c ++ rest)) = .error x := by
  obtain ⟨blocks, hblocks, rfl⟩ := exists_blocks hrest
  exact decryptFrame_of_decBlocks_error ht (blocks := c :: blocks) (checkKeys_of_blkDec_ok hdec)
    (List.forall_mem_cons.mpr ⟨hc, hblocks⟩) (decBlocks_cons_of_checkCounter_error hdec h blocks)

/-! ### The obligations -/

/-- Settles O11: the length check is the first of the deciphering. -/
theorem contentNotMultiple : Obligations.ContentNotMultiple := by
  intro s t mk e hclass hfit hmod
  have hdec := decryptContent_of_not_multiple hmod s.rxk s.rxCtr s.lenient t
  rw [← decryptFrame_frameOf (cipherType_of_cipherClass hclass)] at hdec
  exact endsIn_halted hclass hfit hdec

/-- Settles O12: without a block the fault comes before the key check; with an empty first block it is the counter
check's; variant `old` has no counter byte to miss. -/
theorem missingCounter : Obligations.MissingCounter := by
  intro s t mk hclass
  have ht := cipherType_of_cipherClass hclass
  refine ⟨fun hv => ?noBlock, fun c rest d hv hc hrest hfit hblk hused => ?emptyBlock, fun hv hkeys => ?old⟩
  case noBlock =>
    have hdec := decryptContent_new_nil s.rxk s.rxCtr s.lenient t
    rw [← decryptFrame_frameOf ht, ← hv] at hdec
    exact endsIn_halted hclass (Nat.zero_le _) hdec
  case emptyBlock =>
    have hdec := decryptFrame_new_of_checkCounter_error (ctr := s.rxCtr) ht hc hrest hblk (checkCounter_of_empty hused)
    rw [← hv] at hdec
    exact endsIn_halted hclass hfit hdec
  case old =>
    rw [← hv] at hkeys
    have hnone : BlocksOk s [] [] := ⟨.nil, fun _ d hd => by cases hd⟩
    have hdec := decryptFrame_of_blocksOk ht (checkKeys_slotKeys_of_usable _ _ hkeys) hnone
      (fun hnew => by rw [hv] at hnew; cases hnew)
    have hctr : s.nextRxCtr = s.rxCtr := by rw [State.nextRxCtr, hv]
    obtain ⟨-, -, hlong⟩ := isCipher_of_cipherType ht
    have hheader : frameOf t [] = [t, 0x00, 0x03] := frameOf_long hlong []
    rw [hctr, List.flatMap_nil, List.drop_nil] at hdec
    rw [← hheader]
    exact endsIn_delivered hclass (Nat.zero_le _) hdec

/-- Settles O13: block 0 passes its own checks and fails the counter check, in either mode. -/
theorem counterMismatch : Obligations.CounterMismatch := by
  intro s t mk c rest d hclass hv hc hrest hfit hblk hused hne
  have hdec := decryptFrame_new_of_checkCounter_error (cipherType_of_cipherClass hclass) hc hrest hblk
    (checkCounter_of_mismatch hused hne)
  rw [← hv] at hdec
  exact endsIn_halted hclass hfit hdec

/-- Settles O14: the loop passes the blocks before and stops at the size check of block `k`, in either mode. -/
theorem blockSizeFault : Obligations.BlockSizeFault := by
  intro s t mk pre ds c post hclass husable ⟨hblocks, hfirst⟩ hc hpost hfit hsize
  have hkeys : checkKeys (decKeys s.variant s.rxk) = .ok () := checkKeys_slotKeys_of_usable _ _ husable
  obtain ⟨hsizes, hdecode⟩ := (List.forall₂_and_left _ _).mp hblocks
  obtain ⟨blocks, hrest, rfl⟩ := exists_blocks hpost
  have hloop := decBlocks_append_of_error hdecode (k := 0) (fun hv _ => hfirst hv)
    (decBlocks_cons_of_blkDec_error (blkDec_of_blockCap_lt hkeys hsize s.lenient) s.rxCtr (0 + pre.length) blocks)
  have hall : ∀ b ∈ pre ++ c :: blocks, b.length = s.variant.encBlockSize :=
    List.forall_mem_append.mpr ⟨hsizes, List.forall_mem_cons.mpr ⟨hc, hrest⟩⟩
  have hdec := decryptFrame_of_decBlocks_error (cipherType_of_cipherClass hclass) hkeys hall hloop
  rw [List.flatten_append, List.flatten_cons, ← List.append_assoc] at hdec
  have hends := endsIn_halted hclass hfit hdec
  rwa [Nat.zero_add] at hends

end Sys2Proof.Machine

/-!
The commands (45_system_ops.md R264 to R271): the two counter resets and CMD.CONN_RESET, and the diagnostic commands,
which are a codec operation on the windows where they are enabled and nothing elsewhere.
-/

namespace Sys2Proof.Machine

/-! ### The commands that need no idle core -/

/-- A command for a running core only does its work there. -/
theorem unlessHalted_of_running {s : State} (h : s.fault = false) (f : State → State) : unlessHalted f s = f s := by
  simp [unlessHalted, h]

/-- A halted core ignores it. -/
theorem unlessHalted_of_halted {s : State} (h : s.fault = true) (f : State → State) : unlessHalted f s = s := by
  simp [unlessHalted, h]

/-- Settles O31: CMD.NOP has no effect, and each counter reset is its write behind the check of FAULT. -/
theorem nopAndCounterResets : Obligations.NopAndCounterResets := by
  intro s
  have hrx : exec .cmdRxCtrReset s = .next ((commandRxCtrReset s).respond .done) := rfl
  have htx : exec .cmdTxCtrReset s = .next ((commandTxCtrReset s).respond .done) := rfl
  refine ⟨rfl, fun hrun => ?running, fun hhalt => ?halted⟩
  case running =>
    rw [hrx, htx, commandRxCtrReset, commandTxCtrReset, unlessHalted_of_running hrun, unlessHalted_of_running hrun]
    exact ⟨rfl, rfl⟩
  case halted =>
    rw [hrx, htx, commandRxCtrReset, commandTxCtrReset, unlessHalted_of_halted hhalt, unlessHalted_of_halted hhalt]
    exact ⟨rfl, rfl⟩

/-- Everything STATUS shows is cleared by CMD.CONN_RESET (R32, R265). -/
theorem statusWord_connReset (s : State) : s.connReset.statusWord = 0 := by
  have hstate : s.connReset.rxState = .awaitingHeader := rfl
  simp [State.statusWord, hstate, RxState.code, State.rxDone, State.txDone, bitAt]

/-- Settles O29: the state written out is `connReset`, and the answer is no part of STATUS. -/
theorem connReset : Obligations.ConnReset :=
  fun s => ⟨s.connReset.respond .done, rfl, statusWord_connReset s, rfl⟩

/-! ### When a diagnostic command is enabled (R268) -/

/-- On an idle and running core a diagnostic command does its work. -/
theorem exec_diag_of_diagReady {i : Instr} {f : State → State} {s : State}
    (harm : exec i s = .next ((whenDiag f s).respond .done)) (hready : s.diagReady = true) :
    exec i s = .next ((f s).respond .done) := by
  rw [harm, whenDiag, if_pos hready]

/-- Halted, or with an enabled path, the core ignores it. -/
theorem exec_diag_of_busy {i : Instr} {f : State → State} {s : State}
    (harm : exec i s = .next ((whenDiag f s).respond .done))
    (hbusy : s.fault = true ∨ s.rxEn = true ∨ s.txEn = true) : exec i s = .next { s with resp := .done } := by
  have hnot : ¬ s.diagReady = true := by
    intro hready
    obtain ⟨hfault, hrx, htx⟩ := diagReady_iff.mp hready
    simp [hfault, hrx, htx] at hbusy
  rw [harm, whenDiag, if_neg hnot]
  rfl

/-! ### BLK_STATUS (R38, R268) -/

/-- The information of a fault stands in bits 31:16, its code below. -/
theorem diagStatus_eq (x : Raised) : diagStatus x = x.cause.code.setWidth 32 ||| (x.info0 <<< 16) := by
  have hinfo : (x.info0.setWidth 16).setWidth 32 <<< 16 = x.info0 <<< 16 := by
    refine BitVec.eq_of_getLsbD_eq fun j hj => ?_
    by_cases h : j < 16
    · simp [h]
    · simp [h, show j - 16 < 16 by omega, show j - 16 < 32 by omega]
  rw [diagStatus, hinfo]

/-- WARNED is bit 8. -/
theorem bitAt_warned (b : Bool) : bitAt 8 b = if b then 0x100 else 0 := by
  cases b <;> rfl

/-! ### The windows (R39) -/

/-- `overlay` replaces the first bytes and keeps the rest (R268, R269). -/
theorem getElem_overlay {n : Nat} (b : Vector Byte n) (bs : List Byte) (k : Fin n) :
    (overlay b bs)[k] = if k.val < bs.length then bs.getD k 0 else b[k] := by
  rw [overlay, bufOf_get]
  split
  case isTrue h => exact List.getD_append _ _ _ _ h
  case isFalse h =>
    rw [List.getD_append_right _ _ _ _ (Nat.le_of_not_lt h), List.getD_eq_getElem?_getD, List.getElem?_drop,
      Nat.add_sub_cancel' (Nat.le_of_not_lt h)]
    simp

/-! ### CMD.BLK_ENC (R268) -/

/-- What CMD.BLK_ENC encodes: the first `blockCap` bytes of DPB, BLK_LEN of them used, with the keys of TXK. -/
def State.diagEnc (s : State) : Except Raised (List Byte) :=
  blkEnc s.variant s.txk (s.dpb.toList.take s.variant.blockCap) s.blkLen

theorem exec_cmdBlkEnc_of_ok {s : State} {c : List Byte} (hready : s.diagReady = true) (h : s.diagEnc = .ok c) :
    exec .cmdBlkEnc s = .next { s with dcb := overlay s.dcb c, blkStatus := 0, resp := .done } := by
  rw [State.diagEnc] at h
  rw [exec_diag_of_diagReady (i := .cmdBlkEnc) rfl hready, h]
  rfl

theorem exec_cmdBlkEnc_of_error {s : State} {x : Raised} (hready : s.diagReady = true) (h : s.diagEnc = .error x) :
    exec .cmdBlkEnc s =
      .next { s with blkStatus := x.cause.code.setWidth 32 ||| (x.info0 <<< 16), resp := .done } := by
  rw [State.diagEnc] at h
  rw [exec_diag_of_diagReady (i := .cmdBlkEnc) rfl hready, h, ← diagStatus_eq]
  rfl

/-- Settles O32: an enabled CMD.BLK_ENC is BLK.ENC of the window's block, whose three outcomes go to DCB or to
BLK_STATUS. -/
theorem cmdBlkEncResult : Obligations.CmdBlkEncResult := by
  intro s
  refine ⟨fun hfault hrx htx => ?enabled, fun hbusy => ?ignored⟩
  case ignored => exact exec_diag_of_busy rfl hbusy
  case enabled =>
    have hready := diagReady_iff.mpr ⟨hfault, hrx, htx⟩
    refine ⟨fun hlen hkeys => ?ok, fun hsize => ?size, fun i hlen ⟨hi, hzero, hlow⟩ => ?key⟩
    case ok =>
      have henc := blkEnc_of_checkKeys_ok (s.dpb.toList.take s.variant.blockCap) hlen
        (checkKeys_slotKeys_of_usable _ _ hkeys)
      have hblock := blkEnc_length henc
      refine ⟨_, _, henc, exec_cmdBlkEnc_of_ok hready henc, hblock, fun k => ?_⟩
      rw [getElem_overlay, hblock]
    case size => exact exec_cmdBlkEnc_of_error hready (if_pos hsize)
    case key =>
      have hbad := checkKeys_slotKeys_of_lowest s.txk.enc s.txk.xork hi hzero hlow
      exact exec_cmdBlkEnc_of_error hready (blkEnc_of_checkKeys_error _ hlen hbad)

/-! ### CMD.BLK_DEC (R269) -/

/-- What CMD.BLK_DEC decodes: the first `encBlockSize` bytes of DCB, with the keys of RXK. -/
def State.diagDec (s : State) : Except Raised Decoded :=
  blkDec s.variant s.rxk (s.dcb.toList.take s.variant.encBlockSize) s.lenient

theorem exec_cmdBlkDec_of_ok {s : State} {d : Decoded} (hready : s.diagReady = true) (h : s.diagDec = .ok d) :
    exec .cmdBlkDec s = .next { s with
      dpb := overlay s.dpb d.plain
      blkLen := d.usedLen
      blkStatus := if d.warned then 0x100 else 0
      resp := .done } := by
  rw [State.diagDec] at h
  rw [exec_diag_of_diagReady (i := .cmdBlkDec) rfl hready, h, ← bitAt_warned]
  rfl

theorem exec_cmdBlkDec_of_error {s : State} {x : Raised} (hready : s.diagReady = true) (h : s.diagDec = .error x) :
    exec .cmdBlkDec s =
      .next { s with blkStatus := x.cause.code.setWidth 32 ||| (x.info0 <<< 16), resp := .done } := by
  rw [State.diagDec] at h
  rw [exec_diag_of_diagReady (i := .cmdBlkDec) rfl hready, h, ← diagStatus_eq]
  rfl

/-- The plaintext of a block that decodes is the whole block, however many of its bytes are used (R154). -/
theorem plain_length_of_blkDec_ok {v : Variant} {bank : KeyBank} {c : List Byte} {lenient : Bool} {d : Decoded}
    (h : blkDec v bank c lenient = .ok d) : d.plain.length = v.blockCap := by
  rw [blkDec_of_checkKeys_ok c lenient (checkKeys_of_blkDec_ok h), checkTrailer_eq rfl] at h
  split_ifs at h <;> cases h <;> exact decPlain_length v bank c

/-- A checksum that does not match is refused in strict mode, after the size check passed (R154, R324). -/
theorem blkDec_of_checksum_ne {v : Variant} {bank : KeyBank} {c : List Byte}
    (hkeys : checkKeys (decKeys v bank) = .ok ()) (hsize : (trailerUsed v c).toNat ≤ v.blockCap)
    (hne : csum (decPlain v bank c) (trailerUsed v c).toNat ≠ c.getD (v.encBlockSize - 1) 0) :
    blkDec v bank c false = .error ⟨.invalidBlockChecksum,
      ((csum (decPlain v bank c) (trailerUsed v c).toNat).setWidth 32 <<< 8) |||
        (c.getD (v.encBlockSize - 1) 0).setWidth 32, 0⟩ := by
  rw [blkDec_of_checkKeys_ok c false hkeys, checkTrailer_eq (xor_trailer v c), if_neg (not_lt.mpr hsize), if_neg hne]
  rfl

/-- Settles O33: an enabled CMD.BLK_DEC is BLK.DEC of the window's block, whose outcomes go to DPB, BLK_LEN and
BLK_STATUS. -/
theorem cmdBlkDecResult : Obligations.CmdBlkDecResult := by
  rintro s c rfl
  refine ⟨fun hfault hrx htx => ?enabled, fun hbusy => ?ignored⟩
  case ignored => exact exec_diag_of_busy rfl hbusy
  case enabled =>
    have hready := diagReady_iff.mpr ⟨hfault, hrx, htx⟩
    have usable (h : KeysUsable s.variant s.rxk) : checkKeys (decKeys s.variant s.rxk) = .ok () :=
      checkKeys_slotKeys_of_usable _ _ h
    refine ⟨fun d hdec => ?ok, fun i ⟨hi, hzero, hlow⟩ => ?key, fun hkeys hsize => ?size, ?checksum⟩
    case ok =>
      refine ⟨_, exec_cmdBlkDec_of_ok hready hdec, fun k => ?_⟩
      rw [getElem_overlay, plain_length_of_blkDec_ok hdec]
    case key =>
      have hbad := checkKeys_slotKeys_of_lowest s.rxk.dec s.rxk.xork hi hzero hlow
      exact exec_cmdBlkDec_of_error hready (blkDec_of_checkKeys_error _ s.lenient hbad)
    case size => exact exec_cmdBlkDec_of_error hready (blkDec_of_blockCap_lt (usable hkeys) hsize s.lenient)
    case checksum =>
      rintro _ _ hkeys hstrict hsize rfl rfl hne
      have hdec := blkDec_of_checksum_ne (usable hkeys) hsize hne
      rw [← hstrict] at hdec
      exact exec_cmdBlkDec_of_error hready hdec

/-! ### CMD.PACK18 and CMD.UNPACK18 (R270, R271) -/

/-- Every slot PK_SLOT can name lies within DCB. -/
theorem dcb_holds_field (s : State) : 18 * s.pkSlot.toNat + 18 ≤ 8 * s.dcb.toList.length := by
  have hslot := s.pkSlot.isLt
  rw [Vector.length_toList]
  omega

/-- A field survives its zero-extension to the 32 bits of a register. -/
theorem setWidth_setWidth_field (v : Field) : (v.setWidth 32).setWidth 18 = v := by simp

theorem exec_cmdPack18_of_diagReady {s : State} (hready : s.diagReady = true) :
    exec .cmdPack18 s = .next { s with
      dcb := bufOf 38 (pack18 s.dcb.toList s.pkSlot.toNat (s.pkVal.setWidth 32)), blkStatus := 0, resp := .done } := by
  rw [exec_diag_of_diagReady (i := .cmdPack18) rfl hready]
  rfl

theorem exec_cmdUnpack18_of_diagReady {s : State} (hready : s.diagReady = true) :
    exec .cmdUnpack18 s = .next { s with
      pkVal := unpack18 s.dcb.toList s.pkSlot.toNat, blkStatus := 0, resp := .done } := by
  rw [exec_diag_of_diagReady (i := .cmdUnpack18) rfl hready]
  rfl

/-- Settles O34: the commands are PACK18 and UNPACK18 of DCB, whose bits the rules of bit packing give. -/
theorem cmdPackUnpack : Obligations.CmdPackUnpack := by
  intro s
  refine ⟨fun hfault hrx htx => ?enabled, fun hbusy => ?ignored⟩
  case ignored => exact ⟨exec_diag_of_busy rfl hbusy, exec_diag_of_busy rfl hbusy⟩
  case enabled =>
    have hready := diagReady_iff.mpr ⟨hfault, hrx, htx⟩
    refine ⟨⟨_, exec_cmdPack18_of_diagReady hready, ?packed, ?bits, ?fields⟩,
      ⟨_, exec_cmdUnpack18_of_diagReady hready, rfl, ?swapped, fun k hk => getLsbD_unpack18 _ _ hk⟩⟩
    case packed => exact bufOf_toList (by simp)
    case bits =>
      intro pos _
      rw [bufOf_toList (by simp), streamBit_pack18 (dcb_holds_field s), setWidth_setWidth_field]
    case fields =>
      intro k hk
      rw [bufOf_toList (by simp), streamBit_pack18_field (dcb_holds_field s) _ hk, ← getLsbD_setWidth_valueBit _ hk,
        setWidth_setWidth_field]
    case swapped =>
      intro k hk
      rw [swap18_getLsbD _ k hk, getLsbD_unpack18 _ _ hk]

end Sys2Proof.Machine

/-!
The register map (10_state.md R30 to R40): which register each number names, what its layout reads (45_system_ops.md
R260), and the write of CTRL (R262).
-/

namespace Sys2Proof.Machine

/-! ### The numbers of the map (R30) -/

/-- CTRL is number 0x000. -/
theorem csrOf_ctrl : csrOf 0x000 = some .ctrl := by decide

/-- DPB takes eight numbers from 0x020 on. -/
theorem csrOf_dpb (r : Fin 8) : csrOf (0x020 + BitVec.ofNat 12 r) = some (.dpb r) := by
  revert r
  decide

/-- DCB takes ten numbers from 0x030 on. -/
theorem csrOf_dcb (r : Fin 10) : csrOf (0x030 + BitVec.ofNat 12 r) = some (.dcb r) := by
  revert r
  decide

/-- The number of slot 0 of a key file (R40). -/
def keyFileNumber : Bank → KeyFile → BitVec 12
  | .txk, .mod => 0x100
  | .txk, .enc => 0x110
  | .txk, .dec => 0x120
  | .txk, .xork => 0x130
  | .rxk, .mod => 0x200
  | .rxk, .enc => 0x210
  | .rxk, .dec => 0x220
  | .rxk, .xork => 0x230

/-- A key file takes sixteen numbers, one for each slot. -/
theorem csrOf_key (bank : Bank) (file : KeyFile) (i : Fin 16) :
    csrOf (keyFileNumber bank file + BitVec.ofNat 12 i) = some (.key bank file i) := by
  revert i
  cases bank <;> cases file <;> decide

/-- Below 0x020 the map ends at 0x013. -/
theorem lowCsr_eq_none {n : Nat} (h : 0x014 ≤ n) : lowCsr n = none := by
  obtain ⟨m, rfl⟩ := Nat.exists_eq_add_of_le' h
  rfl

/-- The numbers between the ranges of the map name no register. -/
theorem csrOf_of_unmapped {n : BitVec 12} (h : Unmapped n) : csrOf n = none := by
  by_cases hlow : n.toNat < 0x020
  · rw [csrOf, if_pos hlow, lowCsr_eq_none (by omega)]
  · rw [csrOf, if_neg hlow, if_neg (by omega), dif_neg (by omega), if_neg (by omega), if_neg (by omega)]

/-- CSR.RD of an unmapped number answers 0 (R260). -/
theorem csrReads_of_unmapped {n : BitVec 12} (h : Unmapped n) (s : State) : CsrReads s n 0 := by
  have hread : s.readNumber n = 0 := by simp [State.readNumber, csrOf_of_unmapped h]
  rw [CsrReads, ← hread]
  rfl

/-! ### The layouts (R31, R39) -/

/-- The four bits of CTRL, as a sum. -/
theorem ctrlWord_eq (s : State) :
    s.ctrlWord = (if s.variant = .old then 1 else 0) + (if s.lenient then 2 else 0) + (if s.rxEn then 4 else 0)
      + (if s.txEn then 8 else 0) := by
  have hbits : ∀ a b c d : Bool, bitAt 0 a ||| bitAt 1 b ||| bitAt 2 c ||| bitAt 3 d =
      (if a then 1 else 0) + (if b then 2 else 0) + (if c then 4 else 0) + (if d then 8 else 0) := by decide
  have hvariant : s.variant.toBool = true ↔ s.variant = .old := by cases s.variant <;> decide
  simp only [State.ctrlWord, hbits, hvariant]

/-- Above its lowest byte a word of bytes is the word of the others. -/
theorem extractLsb'_append_byte {w : Nat} (hi : BitVec w) (lo : Byte) (start len : Nat) :
    (hi ++ lo).extractLsb' (start + 8) len = hi.extractLsb' start len := by
  rw [BitVec.extractLsb'_append_eq_of_le (by omega), Nat.add_sub_cancel]

/-- Byte lane `j` of a register of a window (R39, R65). -/
theorem lane_windowRead {n : Nat} (b : Vector Byte n) (r : Nat) {j : Nat} (hj : j < 4) :
    (windowRead b r).extractLsb' (8 * j) 8 = b.toList.getD (4 * r + j) 0 := by
  unfold windowRead
  interval_cases j
  · exact BitVec.extractLsb'_append_eq_right
  · exact (extractLsb'_append_byte _ _ 0 8).trans BitVec.extractLsb'_append_eq_right
  · exact ((extractLsb'_append_byte _ _ 8 8).trans (extractLsb'_append_byte _ _ 0 8)).trans
      BitVec.extractLsb'_append_eq_right
  · exact (((extractLsb'_append_byte _ _ 16 8).trans (extractLsb'_append_byte _ _ 8 8)).trans
      (extractLsb'_append_byte _ _ 0 8)).trans BitVec.extractLsb'_eq_self

/-- Byte `k` of a window stands in byte lane `k mod 4` of its register `k / 4`. -/
theorem lane_of_byte {n : Nat} (b : Vector Byte n) (k : Fin n) :
    (windowRead b (k / 4)).extractLsb' (8 * (k % 4)) 8 = b[k] := by
  rw [lane_windowRead b _ (Nat.mod_lt _ (by decide)), Nat.div_add_mod]
  simp

/-- DCB9 holds bytes 36 and 37 only: its upper half reads 0. -/
theorem upper_half_dcb9 (b : Vector Byte 38) : (windowRead b 9).extractLsb' 16 16 = 0 := by
  have h38 : b.toList.getD 38 0 = 0 := List.getD_eq_default _ _ (by simp)
  have h39 : b.toList.getD 39 0 = 0 := List.getD_eq_default _ _ (by simp)
  have hupper : (windowRead b 9).extractLsb' 16 16 = b.toList.getD 39 0 ++ b.toList.getD 38 0 :=
    ((extractLsb'_append_byte _ _ 8 16).trans (extractLsb'_append_byte _ _ 0 16)).trans BitVec.extractLsb'_eq_self
  rw [hupper, h38, h39]
  rfl

/-! ### The obligations -/

/-- Settles O35: each number names its register by the map. The values of CTRL and of the window registers are the
layouts above; the value of every other register is the statement's by unfolding `readCsr`. -/
theorem csrReadMap : Obligations.CsrReadMap := by
  intro s
  have reads (n : BitVec 12) (r : Csr) (h : csrOf n = some r) : CsrReads s n (s.readCsr r) := csrReads_of_csrOf h s
  have keyReads (bank : Bank) (file : KeyFile) (i : Fin 16) :
      CsrReads s (keyFileNumber bank file + BitVec.ofNat 12 i) ((s.bank bank).read file i) :=
    csrReads_of_csrOf (csrOf_key bank file i) s
  refine ⟨⟨_, reads 0x000 .ctrl csrOf_ctrl, ctrlWord_eq s⟩,
    reads 0x001 .status csrOf_status, reads 0x002 .errCode rfl, reads 0x003 .errInfo0 rfl, reads 0x004 .errInfo1 rfl,
    reads 0x005 .errPosLo rfl, reads 0x006 .errPosHi rfl, reads 0x007 .rxCtr rfl, reads 0x008 .txCtr rfl,
    reads 0x009 .rxPosLo rfl, reads 0x00A .rxPosHi rfl, reads 0x00B .txPosLo rfl, reads 0x00C .txPosHi rfl,
    reads 0x00D .warnCnt rfl, reads 0x00E .rxRemain rfl, reads 0x00F .cmd csrOf_cmdNumber, reads 0x010 .blkLen rfl,
    reads 0x011 .blkStatus rfl, reads 0x012 .pkSlot rfl, reads 0x013 .pkVal rfl, fun k => ?dpb, fun k => ?dcb,
    ⟨_, reads 0x039 (.dcb 9) (csrOf_dcb 9), upper_half_dcb9 s.dcb⟩, fun i => ?keys,
    fun n hn => csrReads_of_unmapped hn s⟩
  case dpb => exact ⟨_, reads _ _ (csrOf_dpb ⟨k / 4, by omega⟩), lane_of_byte s.dpb k⟩
  case dcb => exact ⟨_, reads _ _ (csrOf_dcb ⟨k / 4, by omega⟩), lane_of_byte s.dcb k⟩
  case keys =>
    exact ⟨keyReads .txk .mod i, keyReads .txk .enc i, keyReads .txk .dec i, keyReads .txk .xork i,
      keyReads .rxk .mod i, keyReads .rxk .enc i, keyReads .rxk .dec i, keyReads .rxk .xork i⟩

/-- The lock of VARIANT and LENIENT: neither path was enabled before the write. -/
theorem writeCtrl_eq (s : State) (v : Word) :
    writeCtrl s v = { s with
      variant := if s.rxEn = false ∧ s.txEn = false then (if v.getLsbD 0 then .old else .new) else s.variant
      lenient := if s.rxEn = false ∧ s.txEn = false then v.getLsbD 1 else s.lenient
      rxEn := if v.getLsbD 2 = true then true else s.rxEn
      txEn := if v.getLsbD 3 = true then true else s.txEn } := by
  have hlock : (!s.rxEn && !s.txEn) = true ↔ s.rxEn = false ∧ s.txEn = false := by simp
  have hvariant : Variant.ofBool (v.getLsbD 0) = if v.getLsbD 0 then .old else .new := by
    cases v.getLsbD 0 <;> rfl
  have hset (e w : Bool) : (e || w) = if w = true then true else e := by cases w <;> simp
  simp only [writeCtrl, hlock, hvariant, hset]

/-- Settles O39: number 0x000 is CTRL, and its write is `writeCtrl`. -/
theorem ctrlWrite : Obligations.CtrlWrite := by
  intro s v
  rw [← writeCtrl_eq]
  exact csrWrites_of_csrOf csrOf_ctrl s v

end Sys2Proof.Machine

/-!
The faults of a key and of a block's checksum (60_exceptions.md R324, R327): where each is raised on the two paths, and
that no check of RX.PROCESS raises InvalidBlockChecksum in lenient mode.
-/

namespace Sys2Proof.Machine

/-! ### A zero modulus on either path (R327) -/

/-- TX.FRAME checks the keys after the enciphered length, and before any block is made (R212, R213). -/
theorem encryptContent_of_checkKeys_error {v : Variant} {bank : KeyBank} {t : Byte} (hlong : hdrLen t = 3)
    {content : List Byte} (hlen : encipheredLen v content.length ≤ 65535) {x : Raised}
    (hkeys : checkKeys (encKeys v bank) = .error x) (ctr : Byte) : encryptContent v bank ctr t content = .error x := by
  rcases encryptContent_cases v bank ctr hlong content with ⟨hover, -⟩ | ⟨-, y, hy, henc⟩ | ⟨-, hok, -⟩
  · omega
  · cases hkeys.symm.trans hy
    exact henc
  · cases hkeys.symm.trans hok

/-- A content of whole blocks that is not empty where a counter byte is due has a first block (R233). -/
theorem counter_block_present {v : Variant} {e : List Byte} (hmod : e.length % v.encBlockSize = 0)
    (hsome : v = .new → e ≠ []) : ¬(v.usesCounter = true ∧ e.length / v.encBlockSize = 0) := by
  rintro ⟨hv, hzero⟩
  have hlen : e.length = 0 := by rw [← Nat.div_add_mod e.length v.encBlockSize, hzero, hmod, Nat.mul_zero]
  exact hsome (v.usesCounter_iff.mp hv) (List.length_eq_zero_iff.mp hlen)

/-- RX.PROCESS checks the keys after the two length checks, and before any block is read (R231). -/
theorem decryptContent_of_checkKeys_error {v : Variant} {bank : KeyBank} {e : List Byte}
    (hmod : e.length % v.encBlockSize = 0) (hsome : v = .new → e ≠ []) {x : Raised}
    (hkeys : checkKeys (decKeys v bank) = .error x) (ctr : Byte) (lenient : Bool) (t : Byte) :
    decryptContent v bank ctr lenient t e = .error x := by
  simp only [decryptContent, if_neg (not_not.mpr hmod), if_neg (counter_block_present hmod hsome), hkeys]

/-- Settles O25: on each path the earlier checks pass, and the key check reports the lowest slot. -/
theorem invalidKeyFault : Obligations.InvalidKeyFault := by
  refine ⟨fun s t content i ht hwait hfit hlen ⟨hi, hzero, hlow⟩ => ?tx,
    fun s t mk e i hclass hfit hmod hsome ⟨hi, hzero, hlow⟩ => ?rx⟩
  case tx =>
    obtain ⟨-, -, hlong⟩ := isCipher_of_cipherType ht
    have hkeys := checkKeys_slotKeys_of_lowest s.txk.enc s.txk.xork hi hzero hlow
    have henc := encryptContent_of_checkKeys_error hlong hlen hkeys s.txCtr
    rw [← encryptFrame_frameOf s.variant s.txk s.txCtr ht hfit, ← longOf_eq_frameOf hlong] at henc
    exact exec_txFrame_halts hwait henc
  case rx =>
    have hkeys := checkKeys_slotKeys_of_lowest s.rxk.dec s.rxk.xork hi hzero hlow
    have hdec := decryptContent_of_checkKeys_error hmod hsome hkeys s.rxCtr s.lenient t
    rw [← decryptFrame_frameOf (cipherType_of_cipherClass hclass)] at hdec
    exact endsIn_halted hclass hfit hdec

/-! ### A block that BLK.DEC refuses -/

/-- A fault of BLK.DEC after blocks that decode halts the core, with the index of its block where R234 and R235 record
it. -/
theorem endsIn_halted_of_blkDec_error {s : State} {t : Byte} {mk : Half → List Byte → Instr}
    {pre : List (List Byte)} {ds : List Decoded} {c post : List Byte} {x : Raised} (hclass : CipherClass t mk)
    (hkeys : checkKeys (decKeys s.variant s.rxk) = .ok ()) (hok : BlocksOk s pre ds)
    (hc : c.length = s.variant.encBlockSize) (hpost : post.length % s.variant.encBlockSize = 0)
    (hfit : (pre.flatten ++ c ++ post).length ≤ 65532) (h : blkDec s.variant s.rxk c s.lenient = .error x) :
    EndsIn s t mk (pre.flatten ++ c ++ post)
      (s.haltedWith ((x.atBlock pre.length).cause.code.setWidth 32) 0 (x.atBlock pre.length).info0
        (x.atBlock pre.length).info1 s.rxPos) := by
  obtain ⟨hblocks, hfirst⟩ := hok
  obtain ⟨hsizes, hdecode⟩ := (List.forall₂_and_left _ _).mp hblocks
  obtain ⟨blocks, hrest, rfl⟩ := exists_blocks hpost
  have hstop : decBlocks s.variant s.rxk s.rxCtr s.lenient (0 + pre.length) (c :: blocks)
      = .error (x.atBlock pre.length) := by
    rw [Nat.zero_add]
    exact decBlocks_cons_of_blkDec_error h ..
  have hloop := decBlocks_append_of_error hdecode (fun hv _ => hfirst hv) hstop
  have hall : ∀ b ∈ pre ++ c :: blocks, b.length = s.variant.encBlockSize :=
    List.forall_mem_append.mpr ⟨hsizes, List.forall_mem_cons.mpr ⟨hc, hrest⟩⟩
  have hdec := decryptFrame_of_decBlocks_error (cipherType_of_cipherClass hclass) hkeys hall hloop
  rw [List.flatten_append, List.flatten_cons, ← List.append_assoc] at hdec
  exact endsIn_halted hclass hfit hdec

/-! ### The causes RX.PROCESS can raise -/

/-- Recording the block's index keeps the cause. -/
@[simp] theorem atBlock_cause (x : Raised) (k : Nat) : (x.atBlock k).cause = x.cause := by
  unfold Raised.atBlock
  split <;> rfl

/-- The key check raises InvalidKey only (R152). -/
theorem cause_of_checkKeys_error {keys : List SlotKey} {x : Raised} (h : checkKeys keys = .error x) :
    x.cause = .invalidKey := by
  rcases checkKeys_cases keys with ⟨hok, -⟩ | ⟨_, _, _, -, -, -, herr⟩
  · cases h.symm.trans hok
  · cases h.symm.trans herr
    rfl

/-- The counter check raises one of its two faults (R233, R236). -/
theorem cause_of_checkCounter_error {v : Variant} {ctr : Byte} {k : Nat} {d : Decoded} {x : Raised}
    (h : checkCounter v ctr k d = .error x) : x.cause = .contentLength ∨ x.cause = .invalidPacketCounter := by
  unfold checkCounter at h
  split_ifs at h <;> cases h
  · exact .inl rfl
  · exact .inr rfl

/-- In lenient mode BLK.DEC tolerates a checksum mismatch (R154). -/
theorem cause_of_blkDec_lenient_error {v : Variant} {bank : KeyBank} {c : List Byte} {x : Raised}
    (h : blkDec v bank c true = .error x) : x.cause = .invalidKey ∨ x.cause = .invalidBlockSize := by
  rcases blkDec_cases v bank c true with ⟨y, hkeys, hdec⟩ | ⟨-, hdec⟩
  · cases h.symm.trans hdec
    exact .inl (cause_of_checkKeys_error hkeys)
  · rw [hdec, checkTrailer_eq rfl] at h
    simp only [if_true] at h
    split_ifs at h
    cases h
    exact .inr rfl

/-- The block loop raises what BLK.DEC raises of one of its blocks, or what the counter check raises (R231). -/
theorem decBlocks_error_cases {v : Variant} {bank : KeyBank} {ctr : Byte} {lenient : Bool} {k : Nat}
    {cs : List (List Byte)} {x : Raised} (h : decBlocks v bank ctr lenient k cs = .error x) :
    (∃ c ∈ cs, ∃ y j, blkDec v bank c lenient = .error y ∧ x = y.atBlock j) ∨
    (∃ d j, checkCounter v ctr j d = .error x) := by
  induction cs generalizing k with
  | nil => cases h
  | cons c cs ih =>
    cases hdec : blkDec v bank c lenient with
    | error y =>
      rw [decBlocks_cons_of_blkDec_error hdec] at h
      cases h
      exact .inl ⟨c, List.mem_cons_self, y, k, hdec, rfl⟩
    | ok d =>
      cases hcheck : checkCounter v ctr k d with
      | error y =>
        rw [decBlocks_cons_of_checkCounter_error hdec hcheck] at h
        cases h
        exact .inr ⟨d, k, hcheck⟩
      | ok _ =>
        cases hrest : decBlocks v bank ctr lenient (k + 1) cs with
        | error y =>
          simp only [decBlocks, hdec, hcheck, hrest] at h
          cases h
          exact (ih hrest).imp_left fun ⟨b, hb, hraise⟩ => ⟨b, List.mem_cons_of_mem c hb, hraise⟩
        | ok r => simp [decBlocks, hdec, hcheck, hrest] at h

/-- The deciphering of a content raises a length fault, what the key check raises, or what the block loop raises
(R231 to R236). -/
theorem decryptContent_error_cases {v : Variant} {bank : KeyBank} {ctr : Byte} {lenient : Bool} {t : Byte}
    {e : List Byte} {x : Raised} (h : decryptContent v bank ctr lenient t e = .error x) :
    x.cause = .contentLength ∨ checkKeys (decKeys v bank) = .error x ∨
    ∃ blocks, decBlocks v bank ctr lenient 0 blocks = .error x := by
  by_cases hmod : e.length % v.encBlockSize = 0
  · by_cases hnone : v = .new ∧ e = []
    · obtain ⟨rfl, rfl⟩ := hnone
      cases h
      exact .inl rfl
    · have hsome : v = .new → e ≠ [] := fun hv he => hnone ⟨hv, he⟩
      cases hkeys : checkKeys (decKeys v bank) with
      | error y =>
        cases (decryptContent_of_checkKeys_error hmod hsome hkeys ctr lenient t).symm.trans h
        exact .inr (.inl rfl)
      | ok _ =>
        refine .inr (.inr ⟨chunks v.encBlockSize (e.length / v.encBlockSize) e, ?_⟩)
        simp only [decryptContent, if_neg (not_not.mpr hmod), if_neg (counter_block_present hmod hsome), hkeys] at h
        cases hloop : decBlocks v bank ctr lenient 0 (chunks v.encBlockSize (e.length / v.encBlockSize) e) with
        | error y =>
          rw [hloop] at h
          cases h
          rfl
        | ok r =>
          rw [hloop] at h
          cases h
  · cases (decryptContent_of_not_multiple hmod bank ctr lenient t).symm.trans h
    exact .inl rfl

/-- A frame that raises in RX.PROCESS is a cipher-qualifying one, and raises what its content does (R231). -/
theorem decryptContent_of_decryptFrame_error {v : Variant} {bank : KeyBank} {ctr : Byte} {lenient : Bool}
    {f : List Byte} {x : Raised} (h : decryptFrame v bank ctr lenient f = .error x) :
    decryptContent v bank ctr lenient (f.getD 0 0) (f.drop (hdrLen (f.getD 0 0))) = .error x := by
  cases hc : isCipher (f.getD 0 0)
  · cases (decryptFrame_of_not_isCipher hc v bank ctr lenient).symm.trans h
  · simpa only [decryptFrame, hc, if_true] using h

/-- In lenient mode no frame raises InvalidBlockChecksum (R324). -/
theorem cause_ne_of_decryptFrame_lenient_error {v : Variant} {bank : KeyBank} {ctr : Byte} {f : List Byte} {x : Raised}
    (h : decryptFrame v bank ctr true f = .error x) : x.cause ≠ .invalidBlockChecksum := by
  rcases decryptContent_error_cases (decryptContent_of_decryptFrame_error h) with hlen | hkeys | ⟨blocks, hloop⟩
  · simp [hlen]
  · simp [cause_of_checkKeys_error hkeys]
  · rcases decBlocks_error_cases hloop with ⟨c, -, y, j, hdec, rfl⟩ | ⟨d, j, hcheck⟩
    · rcases cause_of_blkDec_lenient_error hdec with hy | hy <;> simp [hy]
    · rcases cause_of_checkCounter_error hcheck with hx | hx <;> simp [hx]

/-- Bits 7:0 of ERR_CODE are the code of the cause (R33, R330). -/
theorem errCodeWord_code (dir : Dir) (c : Cause) : (errCodeWord dir c).extractLsb' 0 8 = c.code := by
  cases dir <;> cases c <;> decide

/-- Code 3 is InvalidBlockChecksum's (R321). -/
theorem Cause.code_eq_three_iff (c : Cause) : c.code = 3 ↔ c = .invalidBlockChecksum := by
  cases c <;> decide

/-- Settles O15: the loop passes the blocks before and stops at the checksum of block `k`; in lenient mode RX.PROCESS
leaves ERR_CODE as it was or enters a fault of another cause. -/
theorem blockChecksumFault : Obligations.BlockChecksumFault := by
  refine ⟨fun s t mk pre ds c post computed received hclass hstrict husable hok hc hpost hfit hsize hcomputed hreceived
    hne => ?strict, fun s t hlenient hclear hexec => ?lenient⟩
  case strict =>
    subst hcomputed hreceived
    have hkeys : checkKeys (decKeys s.variant s.rxk) = .ok () := checkKeys_slotKeys_of_usable _ _ husable
    have hdec := blkDec_of_checksum_ne hkeys hsize hne
    rw [← hstrict] at hdec
    exact endsIn_halted_of_blkDec_error hclass hkeys hok hc hpost hfit hdec
  case lenient =>
    cases hexec
    rcases rxProcess_cases s with ⟨-, h⟩ | ⟨-, g, ctr, warns, -, h⟩ | ⟨-, x, hdec, h⟩
    · rw [h, respond_errCode, hclear]
      decide
    · rw [h, hclear]
      decide
    · rw [hlenient] at hdec
      rw [h, faulted_errCode, errCodeWord_code]
      exact fun hcode => cause_ne_of_decryptFrame_lenient_error hdec (x.cause.code_eq_three_iff.mp hcode)

end Sys2Proof.Machine

/-!
Fault entry and the halted state (60_exceptions.md R330 to R332). The instructions fall into four classes: the resets, the
steps of RX, the steps of TX, and the rest. For each class it is said once what it does to the connection: the fault latch
with its information, the positions, the close flags, the buffers and WARN_CNT.
-/

namespace Sys2Proof.Machine

/-! ### The connection -/

/-- The part of the state that a connection owns: what fault entry writes and what a halted core keeps (R330, R331). -/
structure Connection where
  fault : Bool
  errCode : Word
  errInfo0 : Word
  errInfo1 : Word
  errPos : Dword
  rxPos : Dword
  txPos : Dword
  rxClosed : Bool
  txClosed : Bool
  rxbuf : List Byte
  outf : Option (List Byte)
  txout : List Byte
  warnCnt : Word

/-- The connection of a state. -/
def State.connection (s : State) : Connection where
  fault := s.fault
  errCode := s.errCode
  errInfo0 := s.errInfo0
  errInfo1 := s.errInfo1
  errPos := s.errPos
  rxPos := s.rxPos
  txPos := s.txPos
  rxClosed := s.rxClosed
  txClosed := s.txClosed
  rxbuf := s.rxbuf
  outf := s.outf
  txout := s.txout
  warnCnt := s.warnCnt

theorem connection_eq_iff {s t : State} :
    t.connection = s.connection ↔
      t.fault = s.fault ∧ SameFaultInfo t s ∧ t.rxPos = s.rxPos ∧ t.txPos = s.txPos ∧ t.rxClosed = s.rxClosed ∧
      t.txClosed = s.txClosed ∧ t.rxbuf = s.rxbuf ∧ t.outf = s.outf ∧ t.txout = s.txout ∧ t.warnCnt = s.warnCnt := by
  simp only [State.connection, Connection.mk.injEq, SameFaultInfo, and_assoc]

/-! ### The instructions of neither path -/

/-- Of the commands only CMD.CONN_RESET touches the connection (R264 to R271). -/
theorem connection_command {code : Byte} (hcode : code ≠ 0x01) (s : State) :
    (command code s).connection = s.connection := by
  rcases command_cases code s with h | ⟨hconn, -⟩ | ⟨-, -, h⟩ | ⟨-, -, h⟩ | ⟨-, _, _, _, _, _, h⟩
  · rw [h]
  · exact absurd hconn hcode
  all_goals
    rw [h]
    rfl

/-- CMD is number 0x00F and no other (R30). -/
theorem eq_cmdNumber_of_csrOf {n : BitVec 12} (h : csrOf n = some .cmd) : n = cmdNumber := by
  have hlow : ∀ k : Nat, lowCsr k = some .cmd → k = 0x00F := by
    intro k hk
    unfold lowCsr at hk
    split at hk <;> simp at hk ⊢
  unfold csrOf at h
  split_ifs at h
  · exact BitVec.eq_of_toNat_eq (hlow n.toNat h)
  all_goals cases h

/-- A register write that is not CMD.CONN_RESET leaves the connection alone (R261). -/
theorem connection_writeNumber {n : BitVec 12} {v : Word} (h : isResetInstr (.csrWr n v) = false) (s : State) :
    (writeNumber s n v).connection = s.connection := by
  rcases writeNumber_cases s n v with hw | hw | ⟨hn, hw⟩ | ⟨-, _, _, hw⟩ | ⟨-, _, _, hw⟩ | ⟨_, _, _, _, _, hw⟩
  case inr.inr.inl =>
    have hcode : v.setWidth 8 ≠ 0x01#8 := by
      rintro hv
      simp [isResetInstr, eq_cmdNumber_of_csrOf hn, hv] at h
    rw [hw, connection_command hcode]
  case inl => rw [hw]
  all_goals
    rw [hw]
    rfl

/-- A command that is not CMD.CONN_RESET answers "done" and leaves the connection alone. -/
theorem exec_command_keeps_connection {code : Byte} {i : Instr} {s t : State} (hi : commandOf code = some i)
    (hcode : code ≠ 0x01) (h : exec i s = .next t) : t.connection = s.connection ∧ t.resp ≠ .faulted := by
  rw [exec_of_commandOf hi] at h
  cases h
  exact ⟨connection_command hcode s, by simp⟩

theorem encAnswer_ne_faulted (r : Except Raised (List Byte)) : encAnswer r ≠ .faulted := by
  cases r <;> simp [encAnswer]

theorem decAnswer_ne_faulted (r : Except Raised Decoded) : decAnswer r ≠ .faulted := by
  cases r <;> simp [decAnswer]

/-- An instruction that is no reset and no step of a path leaves the connection alone and raises no fault, whatever the
state is. -/
theorem exec_keeps_connection {i : Instr} {s t : State} (hreset : isResetInstr i = false) (hrx : isRxInstr i = false)
    (htx : isTxInstr i = false) (h : exec i s = .next t) : t.connection = s.connection ∧ t.resp ≠ .faulted := by
  cases i
  case frameC1 | frameC2 | frameC3 | frameC4 | rxByte | rxProcess | rxDeliver | rxClose | rxAbort =>
    simp [isRxInstr] at hrx
  case txFrame | txByte | txClose | txAbort => simp [isTxInstr] at htx
  case reset | cmdConnReset => simp [isResetInstr] at hreset
  case cmdNop => exact exec_command_keeps_connection (code := 0x00) rfl (by decide) h
  case cmdRxCtrReset => exact exec_command_keeps_connection (code := 0x02) rfl (by decide) h
  case cmdTxCtrReset => exact exec_command_keeps_connection (code := 0x03) rfl (by decide) h
  case cmdBlkEnc => exact exec_command_keeps_connection (code := 0x10) rfl (by decide) h
  case cmdBlkDec => exact exec_command_keeps_connection (code := 0x11) rfl (by decide) h
  case cmdPack18 => exact exec_command_keeps_connection (code := 0x12) rfl (by decide) h
  case cmdUnpack18 => exact exec_command_keeps_connection (code := 0x13) rfl (by decide) h
  case csrWr n v =>
    cases h
    exact ⟨connection_writeNumber hreset s, by simp⟩
  case csrRd | modmul | csum | pack18 | unpack18 =>
    cases h
    exact ⟨rfl, by simp⟩
  case blkEnc =>
    cases h
    exact ⟨rfl, encAnswer_ne_faulted _⟩
  case blkDec =>
    cases h
    exact ⟨rfl, decAnswer_ne_faulted _⟩

/-! ### The resets -/

/-- Each reset instruction is one of the two exits (R265, R332, R360). -/
theorem exec_reset_cases {i : Instr} {s t : State} (hreset : isResetInstr i = true) (h : exec i s = .next t) :
    t = s.connReset.respond .done ∨ t = s.hardReset.respond .done := by
  cases i
  case reset =>
    cases h
    exact .inr rfl
  case cmdConnReset =>
    cases h
    exact .inl rfl
  case csrWr n v =>
    simp only [isResetInstr, Bool.and_eq_true, beq_iff_eq] at hreset
    obtain ⟨rfl, hv⟩ := hreset
    have hcmd : commandOf (v.setWidth 8) = some .cmdConnReset := by rw [hv]; rfl
    cases (exec_csrWr_cmd_of_commandOf hcmd s).symm.trans h
    exact .inl rfl
  all_goals simp [isResetInstr] at hreset

/-! ### The steps of the two paths -/

/-- A step with an enabling condition: it is taken, or it waits. -/
theorem next_or_notReady {c : Bool} {u s t : State}
    (h : (if c = true then .next u else notReady s : Result) = .next t) : t = u ∨ t = s.respond .notReady := by
  cases c <;> cases h
  · exact .inr rfl
  · exact .inl rfl

/-- RX.PROCESS keeps FAULT or is fault entry. -/
theorem rxProcess_fault_cases (s : State) : (rxProcess s).fault = s.fault ∨ ∃ x, rxProcess s = s.faulted .rx x := by
  rcases rxProcess_cases s with ⟨-, h⟩ | ⟨-, _, _, _, -, h⟩ | ⟨-, x, -, h⟩
  · exact .inl (by rw [h, respond_fault])
  · exact .inl (by rw [h])
  · exact .inr ⟨x, h⟩

/-- A wire frame keeps FAULT or is fault entry from the state before its first byte: the bytes it put into RXBUF are
gone (R330). -/
theorem rxFrame_fault_cases (bs : List Byte) (s : State) :
    (rxFrame bs s).fault = s.fault ∨ ∃ x, rxFrame bs s = s.faulted .rx x := by
  rcases rxFeed_cases bs s with ⟨buf, r, hfeed⟩ | ⟨x, -, -, hfeed⟩
  · rcases rxFrame_cases bs s with ⟨-, hframe⟩ | ⟨-, hframe⟩
    · rw [hframe, hfeed]
      exact rxProcess_fault_cases { s with rxbuf := buf, resp := r }
    · exact .inl (by rw [hframe, hfeed])
  · exact .inr ⟨x, rxFrame_of_rxFeed_faulted hfeed rfl⟩

/-- A step of RX keeps FAULT or is fault entry on the RX path. -/
theorem exec_rx_fault_cases {i : Instr} {s t : State} (hrx : isRxInstr i = true) (h : exec i s = .next t) :
    t.fault = s.fault ∨ ∃ x, t = s.faulted .rx x := by
  cases i
  case frameC1 | frameC2 | frameC3 | frameC4 =>
    cases h
    exact rxFrame_fault_cases _ s
  case rxProcess =>
    cases h
    exact rxProcess_fault_cases s
  case rxByte b =>
    rcases execRxByte_cases h with ⟨-, rfl⟩ | ⟨-, rfl⟩
    · rcases rxAccept_cases b s with ⟨-, haccept⟩ | ⟨x, -, haccept⟩
      · exact .inl (by rw [haccept])
      · exact .inr ⟨x, haccept⟩
    · exact .inl rfl
  case rxDeliver => rcases execRxDeliver_cases h with ⟨_, -, -, rfl⟩ | ⟨-, rfl⟩ <;> exact .inl rfl
  case rxClose | rxAbort => rcases next_or_notReady h with rfl | rfl <;> exact .inl rfl
  all_goals simp [isRxInstr] at hrx

/-- A step of TX keeps FAULT, or is a TX.FRAME that is fault entry on the TX path. -/
theorem exec_tx_fault_cases {i : Instr} {s t : State} (htx : isTxInstr i = true) (h : exec i s = .next t) :
    t.fault = s.fault ∨ (∃ f, i = .txFrame f) ∧ ∃ x, t = s.faulted .tx x := by
  cases i
  case txFrame f =>
    rcases execTxFrame_cases h with ⟨-, rfl⟩ | ⟨-, _, _, -, rfl⟩ | ⟨-, x, -, rfl⟩
    · exact .inl rfl
    · exact .inl rfl
    · exact .inr ⟨⟨f, rfl⟩, x, rfl⟩
  case txByte => rcases execTxByte_cases h with ⟨_, _, -, -, rfl⟩ | ⟨-, rfl⟩ <;> exact .inl rfl
  case txClose | txAbort => rcases next_or_notReady h with rfl | rfl <;> exact .inl rfl
  all_goals simp [isTxInstr] at htx

/-! ### The steps of the two paths on a halted core (R331) -/

/-- No byte of a wire frame is taken. -/
theorem rxFrame_cons_of_fault {s : State} (h : s.fault = true) (b : Byte) (bs : List Byte) :
    rxFrame (b :: bs) s = s.respond (.stalled (b :: bs)) := by
  have hfeed : rxFeed (b :: bs) s = s.respond (.stalled (b :: bs)) := by simp [rxFeed, rxbReady_of_fault h]
  rcases rxFrame_cases (b :: bs) s with ⟨hdone, -⟩ | ⟨-, hframe⟩
  · simp [hfeed] at hdone
  · rw [hframe, hfeed]

/-- No port offers or takes anything: RXB, RXF, TXF, TXB. -/
theorem ports_closed_of_fault {s : State} (h : s.fault = true) :
    s.rxbReady = false ∧ s.rxfValid = false ∧ s.txfReady = false ∧ s.txbValid = false := by
  simp [State.rxbReady, State.rxfValid, State.txfReady, State.txbValid, h]

/-- A step of either path changes nothing but the answer, and raises nothing. -/
theorem exec_port_of_fault {i : Instr} {s : State} (hport : isRxInstr i = true ∨ isTxInstr i = true)
    (h : s.fault = true) : ∃ r, r ≠ .faulted ∧ exec i s = .next (s.respond r) := by
  have hwait : exec i s = notReady s → ∃ r, r ≠ .faulted ∧ exec i s = .next (s.respond r) :=
    fun hexec => ⟨.notReady, by simp, hexec⟩
  have hframe (b : Byte) (bs : List Byte) (hexec : exec i s = .next (rxFrame (b :: bs) s)) :
      ∃ r, r ≠ .faulted ∧ exec i s = .next (s.respond r) :=
    ⟨.stalled (b :: bs), by simp, by rw [hexec, rxFrame_cons_of_fault h]⟩
  obtain ⟨hrxb, -, htxf, -⟩ := ports_closed_of_fault h
  cases i
  case frameC1 | frameC2 | frameC3 | frameC4 => exact hframe _ _ rfl
  case rxByte b => exact hwait (by simp [exec, execRxByte, hrxb])
  case rxProcess => exact hwait (by simp [exec, execRxProcess, rxProcess, rxProcessReady_of_fault h, notReady])
  case rxDeliver => exact hwait (if_pos h)
  case rxClose => exact hwait (by simp [exec, execRxClose, State.rxOpen, h])
  case rxAbort => exact hwait (by simp [exec, execRxAbort, State.rxOpen, h])
  case txFrame f => exact hwait (by simp [exec, execTxFrame, htxf])
  case txByte => exact hwait (if_pos h)
  case txClose => exact hwait (by simp [exec, execTxClose, State.txOpen, h])
  case txAbort => exact hwait (by simp [exec, execTxAbort, State.txOpen, h])
  all_goals simp [isRxInstr, isTxInstr] at hport

/-! ### The obligations -/

/-- The codes of the causes are 1 to 6 (R321). -/
theorem Cause.code_bounds (c : Cause) :
    1 ≤ (c.code.setWidth 32 : Word).toNat ∧ (c.code.setWidth 32 : Word).toNat ≤ 6 := by
  cases c <;> decide

/-- An instruction that halts a running core is fault entry: of the TX path where it is TX.FRAME, of the RX path
otherwise (R330). -/
theorem faulted_of_exec_halts {i : Instr} {s t : State} (h : exec i s = .next t) (hrun : s.fault = false)
    (hhalt : t.fault = true) :
    ((∃ f, i = .txFrame f) ∧ ∃ x, t = s.faulted .tx x) ∨ ((¬∃ f, i = .txFrame f) ∧ ∃ x, t = s.faulted .rx x) := by
  have hchanged : ¬t.fault = s.fault := by simp [hrun, hhalt]
  cases hreset : isResetInstr i with
  | true => rcases exec_reset_cases hreset h with rfl | rfl <;> cases hhalt
  | false =>
    cases hrx : isRxInstr i with
    | true =>
      have hnot : ¬∃ f, i = .txFrame f := by
        rintro ⟨f, rfl⟩
        cases hrx
      exact .inr ⟨hnot, (exec_rx_fault_cases hrx h).resolve_left hchanged⟩
    | false =>
      cases htx : isTxInstr i with
      | true => exact .inl ((exec_tx_fault_cases htx h).resolve_left hchanged)
      | false =>
        obtain ⟨hkeeps, -⟩ := exec_keeps_connection hreset hrx htx h
        obtain ⟨hfault, -⟩ := connection_eq_iff.mp hkeeps
        exact absurd hfault hchanged

/-- On a halted core no instruction but the resets touches the connection, and none raises a fault (R331). -/
theorem exec_of_fault_keeps_connection {i : Instr} {s t : State} (hreset : isResetInstr i = false)
    (hhalt : s.fault = true) (h : exec i s = .next t) : t.connection = s.connection ∧ t.resp ≠ .faulted := by
  by_cases hport : isRxInstr i = true ∨ isTxInstr i = true
  · obtain ⟨r, hr, hwait⟩ := exec_port_of_fault hport hhalt
    cases hwait.symm.trans h
    exact ⟨rfl, hr⟩
  · simp only [not_or, Bool.not_eq_true] at hport
    obtain ⟨hrx, htx⟩ := hport
    exact exec_keeps_connection hreset hrx htx h

/-- Settles O43: whatever the instruction, a core that halts took fault entry of one of the two paths. -/
theorem faultEntry : Obligations.FaultEntry := by
  refine fun i s t hexec => ⟨fun hrun hhalt => ?raises, fun hhalt => ?silent⟩
  case raises =>
    rcases faulted_of_exec_halts hexec hrun hhalt with ⟨htx, x, rfl⟩ | ⟨hrx, x, rfl⟩
    all_goals obtain ⟨hlo, hhi⟩ := x.cause.code_bounds
    · refine ⟨_, 1, x.info0, x.info1, hlo, hhi, .inr rfl, iff_of_true rfl htx, rfl, ?_⟩
      rw [faulted_tx_eq, if_neg (by decide)]
    · refine ⟨_, 0, x.info0, x.info1, hlo, hhi, .inl rfl, iff_of_false (by decide) hrx, rfl, ?_⟩
      rw [faulted_rx_eq, if_pos rfl]
  case silent =>
    cases hreset : isResetInstr i with
    | true => rcases exec_reset_cases hreset hexec with rfl | rfl <;> simp
    | false =>
      obtain ⟨-, hresp⟩ := exec_of_fault_keeps_connection hreset hhalt hexec
      exact hresp

/-- Settles O44: the steps of the paths wait, the resets are the two exits, and the rest leave the connection alone. -/
theorem haltedState : Obligations.HaltedState := by
  refine fun i s hhalt => ⟨ports_closed_of_fault hhalt, fun hport => ?port, fun t hreset hexec => ?keeps,
    fun t hreset hexec => ?exits⟩
  case port =>
    obtain ⟨r, -, hexec⟩ := exec_port_of_fault hport hhalt
    exact ⟨r, hexec⟩
  case keeps =>
    obtain ⟨hkeeps, -⟩ := exec_of_fault_keeps_connection hreset hhalt hexec
    obtain ⟨hfault, hrest⟩ := connection_eq_iff.mp hkeeps
    exact ⟨hfault.trans hhalt, hrest⟩
  case exits =>
    rcases exec_reset_cases hreset hexec with rfl | rfl <;> exact ⟨rfl, rfl, rfl, rfl, rfl, rfl, rfl, rfl⟩

end Sys2Proof.Machine

/-!
RESET (70_reset_and_hazards.md R360): the column "after RESET" of 10_state.md R46, as CSR.RD and the ports show it. A
register that holds a field reads that field; the fields, the windows and the key banks are all 0, and so every view of
them is.
-/

namespace Sys2Proof.Machine

/-! ### Storage after RESET -/

/-- Every key register of a zero bank reads 0 (R40, R46). -/
theorem KeyBank.zero_read (file : KeyFile) (i : Fin 16) : KeyBank.zero.read file i = 0 := by
  cases file <;> simp [KeyBank.read, KeyBank.file, KeyBank.zero]

/-- A byte of a zero window is 0, and so is one past its end. -/
theorem getD_replicate_zero (n j : Nat) : (Vector.replicate n (0 : Byte)).toList.getD j 0 = 0 := by
  rw [Vector.toList_replicate, List.getD_eq_getElem?_getD, List.getElem?_getD_replicate_default_eq]

/-- Every register of a zero window reads 0 (R39, R46). -/
theorem windowRead_replicate_zero (n k : Nat) : windowRead (Vector.replicate n 0) k = 0 := by
  simp only [windowRead, getD_replicate_zero]
  rfl

/-- Both key banks are zero after RESET. -/
theorem bank_hardReset (s : State) (bank : Bank) : s.hardReset.bank bank = KeyBank.zero := by
  cases bank <;> rfl

/-! ### The registers and ports after RESET -/

/-- RESET leaves nothing for CMD.CONN_RESET to clear. -/
theorem connReset_hardReset (s : State) : s.hardReset.connReset = s.hardReset := rfl

/-- STATUS reads 0 after RESET, as after CMD.CONN_RESET (R32, R46). -/
theorem statusWord_hardReset (s : State) : s.hardReset.statusWord = 0 := by
  rw [← connReset_hardReset, statusWord_connReset]

/-- CTRL reads 0 after RESET: variant `new`, strict, both paths disabled (R31, R46). -/
theorem ctrlWord_hardReset (s : State) : s.hardReset.ctrlWord = 0 := by
  simp [ctrlWord_eq]

/-- Every register of the map reads 0 after RESET: the flags, the views of RXBUF, the fields, the windows, the
keys. -/
theorem readCsr_hardReset (s : State) (r : Csr) : s.hardReset.readCsr r = 0 := by
  cases r with
  | ctrl => exact ctrlWord_hardReset s
  | status => exact statusWord_hardReset s
  | errPosHi | rxPosHi | txPosHi => exact BitVec.extractLsb'_zero
  | dpb k => exact windowRead_replicate_zero 32 k
  | dcb k => exact windowRead_replicate_zero 38 k
  | key bank file slot =>
    rw [State.readCsr, bank_hardReset]
    exact KeyBank.zero_read file slot
  | _ => rfl

/-- CSR.RD does not see the answer of the step before. -/
theorem readNumber_respond (s : State) (r : Response) (n : BitVec 12) :
    (s.respond r).readNumber n = s.readNumber n := rfl

/-- Every number reads 0 after RESET, mapped or not (R260, R360). -/
theorem readNumber_hardReset (s : State) (n : BitVec 12) : s.hardReset.readNumber n = 0 := by
  unfold State.readNumber
  split
  · exact readCsr_hardReset s _
  · rfl

/-- CSR.RD answers 0 at every number after RESET. -/
theorem csrReads_hardReset (s : State) (n : BitVec 12) : CsrReads (s.hardReset.respond .done) n 0 := by
  rw [CsrReads, ← readNumber_hardReset s n, ← readNumber_respond s.hardReset .done n]
  rfl

/-- Settles O30: RESET ends in `hardReset`, whose registers are above; its buffers are empty and both paths disabled, so
the levels and ports are low by evaluation. -/
theorem resetState : Obligations.ResetState :=
  fun s => ⟨s.hardReset.respond .done, rfl, rfl, csrReads_hardReset s, rfl, rfl, rfl, rfl, rfl, rfl, rfl, rfl, rfl, rfl,
    rfl⟩

end Sys2Proof.Machine

/-!
The encodings of instructions (30_encoding.md R90 to R95, R110, R122): the frame a content makes and the content a frame
gives back, a command as a register write, and the instructions that are offered as themselves.
-/

namespace Sys2Proof.Machine

/-! ### Frames on RXB (R91 to R95) -/

/-- The two bytes of a length field, put together again (R63). -/
theorem be16_extract (len : Half) : be16 (len.extractLsb' 8 8) (len.extractLsb' 0 8) = len := by
  have hsplit := toNat_be16 (len.extractLsb' 8 8) (len.extractLsb' 0 8)
  refine BitVec.eq_of_toNat_eq ?_
  rw [hsplit, BitVec.extractLsb'_toNat, BitVec.extractLsb'_toNat, Nat.shiftRight_eq_div_pow, Nat.shiftRight_zero]
  omega

/-- The length field of two bytes has them as its halves (R63). -/
theorem longFrame_be16 (t hi lo : Byte) (content : List Byte) :
    longFrame t (be16 hi lo) content = t :: hi :: lo :: content := by
  have hhi : (be16 hi lo).extractLsb' 8 8 = hi :=
    (BitVec.extractLsb'_append_eq_of_le (by decide)).trans BitVec.extractLsb'_eq_self
  have hlo : (be16 hi lo).extractLsb' 0 8 = lo := BitVec.extractLsb'_append_eq_right
  rw [longFrame, hhi, hlo]

/-- What follows the type byte 0xC1: the length byte and a content of the declared length (R187). -/
theorem decodeShortBody_eq_ok_iff {body : List Byte} {i : Instr} :
    decodeShortBody body = .ok i ↔
      ∃ len content, body = len :: content ∧ content.length = len.toNat - 2 ∧ i = .frameC1 len content := by
  constructor
  · intro h
    unfold decodeShortBody at h
    split at h
    · cases h
    · next len content =>
      split_ifs at h with hlen
      cases h
      exact ⟨len, content, rfl, hlen, rfl⟩
  · rintro ⟨len, content, rfl, hlen, rfl⟩
    exact if_pos hlen

/-- What follows the type byte of a long-header class: two length bytes and a content of the declared length (R188 to
R190). -/
theorem decodeLongBody_eq_ok_iff {mk : Half → List Byte → Instr} {body : List Byte} {i : Instr} :
    decodeLongBody mk body = .ok i ↔
      ∃ hi lo content, body = hi :: lo :: content ∧ content.length = (be16 hi lo).toNat - 3 ∧
        i = mk (be16 hi lo) content := by
  constructor
  · intro h
    unfold decodeLongBody at h
    split at h
    · next hi lo content =>
      split_ifs at h with hlen
      cases h
      exact ⟨hi, lo, content, rfl, hlen, rfl⟩
    · cases h
  · rintro ⟨hi, lo, content, rfl, hlen, rfl⟩
    exact if_pos hlen

/-- The body of a long-header frame whose content has the declared length decodes to that class. -/
theorem decodeLongBody_of_length {len : Half} {content : List Byte} (h : content.length = len.toNat - 3)
    (mk : Half → List Byte → Instr) :
    decodeLongBody mk (len.extractLsb' 8 8 :: len.extractLsb' 0 8 :: content) = .ok (mk len content) :=
  decodeLongBody_eq_ok_iff.mpr ⟨_, _, content, rfl, by rwa [be16_extract], by rw [be16_extract]⟩

/-- The bytes of a long-header frame are those its length field and content encode to. -/
theorem wire_of_decodeLongBody {mk : Half → List Byte → Instr} {t : Byte} {body : List Byte} {i : Instr}
    (henc : ∀ len content, encode (mk len content) = .wire (longFrame t len content))
    (h : decodeLongBody mk body = .ok i) : encode i = .wire (t :: body) := by
  obtain ⟨hi, lo, content, rfl, -, rfl⟩ := decodeLongBody_eq_ok_iff.mp h
  rw [henc, longFrame_be16]

/-- Bytes that decode are the bytes of their instruction (R95). -/
theorem encode_of_decodeFrame {bytes : List Byte} {i : Instr} (h : decodeFrame bytes = .ok i) :
    encode i = .wire bytes := by
  cases bytes with
  | nil => cases h
  | cons t body =>
    simp only [decodeFrame] at h
    split_ifs at h with h1 h2 h3 h4
    · obtain ⟨len, content, rfl, -, rfl⟩ := decodeShortBody_eq_ok_iff.mp h
      rw [h1]
      rfl
    · exact h2 ▸ wire_of_decodeLongBody (fun _ _ => rfl) h
    · exact h3 ▸ wire_of_decodeLongBody (fun _ _ => rfl) h
    · exact h4 ▸ wire_of_decodeLongBody (fun _ _ => rfl) h

/-! ### Writes on the register port (R37, R110) -/

/-- The command of a code is written to CMD as that code (R120). -/
theorem encode_of_commandOf {code : Byte} {i : Instr} (h : commandOf code = some i) :
    encode i = encodeCommand code := by
  unfold commandOf at h
  split_ifs at h with h0 h1 h2 h3 h4 h5 h6 h7 <;> cases h <;> subst code <;> rfl

/-- A write of CMD decodes to the command of bits 7:0. -/
theorem decodeWrite_of_commandOf {v : Word} {i : Instr} (h : commandOf (v.setWidth 8) = some i) :
    decodeWrite cmdNumber v = i := by
  rw [decodeWrite, if_pos rfl, h]

/-- The code of a command survives its encoding as a word. -/
theorem decode_encode_of_commandOf {code : Byte} {i : Instr} (h : commandOf code = some i) :
    decode (encode i) = .ok i := by
  have hcode : (code.setWidth 32).setWidth 8 = code := by simp
  rw [encode_of_commandOf h]
  exact congrArg _ (decodeWrite_of_commandOf (by rwa [hcode]))

/-- Every other write is CSR.WR. -/
theorem decodeWrite_of_no_command {n : BitVec 12} {v : Word} (h : n = cmdNumber → commandOf (v.setWidth 8) = none) :
    decodeWrite n v = .csrWr n v := by
  unfold decodeWrite
  split_ifs with hn
  · rw [h hn]
  · rfl

/-- A register write decodes to the command it carries, or to CSR.WR. -/
theorem decodeWrite_cases (n : BitVec 12) (v : Word) :
    (n = cmdNumber ∧ ∃ i, commandOf (v.setWidth 8) = some i ∧ decodeWrite n v = i) ∨ decodeWrite n v = .csrWr n v := by
  by_cases hn : n = cmdNumber
  · cases hc : commandOf (v.setWidth 8) with
    | none => exact .inr (decodeWrite_of_no_command fun _ => hc)
    | some i => exact .inl ⟨hn, i, rfl, hn ▸ decodeWrite_of_commandOf hc⟩
  · exact .inr (decodeWrite_of_no_command fun h => absurd h hn)

/-! ### Events (R122) -/

/-- An instruction without a bit pattern is offered as itself. -/
theorem encode_of_isEvent {i : Instr} (h : i.isEvent = true) : encode i = .event i := by
  cases i
  case frameC1 | frameC2 | frameC3 | frameC4 | csrWr => cases h
  case cmdNop | cmdConnReset | cmdRxCtrReset | cmdTxCtrReset => cases h
  case cmdBlkEnc | cmdBlkDec | cmdPack18 | cmdUnpack18 => cases h
  all_goals rfl

/-- What is offered as itself decodes to itself. -/
theorem decode_event_eq_ok_iff {i j : Instr} : decode (.event j) = .ok i ↔ j.isEvent = true ∧ i = j := by
  simp only [decode]
  split_ifs with h
  · simp [h, eq_comm]
  · simp [h]

/-! ### The obligations -/

/-- Settles O1: a frame by its length field, a command by its code, CSR.WR by what it does not carry, and the rest as
themselves. -/
theorem decodeOfEncode : Obligations.DecodeOfEncode := by
  intro i hwf
  have event (h : i.isEvent = true) : decode (encode i) = .ok i := by
    rw [encode_of_isEvent h]
    exact decode_event_eq_ok_iff.mpr ⟨h, rfl⟩
  cases i
  case frameC1 len content =>
    exact decodeShortBody_eq_ok_iff.mpr ⟨len, content, rfl, by simpa [WellFormed] using hwf, rfl⟩
  case frameC2 => exact decodeLongBody_of_length (by simpa [WellFormed] using hwf) _
  case frameC3 => exact decodeLongBody_of_length (by simpa [WellFormed] using hwf) _
  case frameC4 => exact decodeLongBody_of_length (by simpa [WellFormed] using hwf) _
  case cmdNop => exact decode_encode_of_commandOf (code := 0x00) rfl
  case cmdConnReset => exact decode_encode_of_commandOf (code := 0x01) rfl
  case cmdRxCtrReset => exact decode_encode_of_commandOf (code := 0x02) rfl
  case cmdTxCtrReset => exact decode_encode_of_commandOf (code := 0x03) rfl
  case cmdBlkEnc => exact decode_encode_of_commandOf (code := 0x10) rfl
  case cmdBlkDec => exact decode_encode_of_commandOf (code := 0x11) rfl
  case cmdPack18 => exact decode_encode_of_commandOf (code := 0x12) rfl
  case cmdUnpack18 => exact decode_encode_of_commandOf (code := 0x13) rfl
  case csrWr n v =>
    refine congrArg _ (decodeWrite_of_no_command ?_)
    rintro rfl
    rw [commandOf_eq_none_iff]
    simpa [WellFormed, cmdNumber] using hwf
  all_goals exact event rfl

/-- Settles O2: the bytes of a frame and an event are kept whole; of a command's word the code is. -/
theorem encodeOfDecoded : Obligations.EncodeOfDecoded := by
  intro o i h
  cases o with
  | wire bytes => exact encode_of_decodeFrame h
  | event j =>
    obtain ⟨hj, rfl⟩ := decode_event_eq_ok_iff.mp h
    exact encode_of_isEvent hj
  | hostWrite n v =>
    cases h
    rcases decodeWrite_cases n v with ⟨rfl, i, hi, hdec⟩ | hdec
    · rw [hdec]
      exact ⟨(v.setWidth 8).setWidth 32, encode_of_commandOf hi, .inr ⟨rfl, by simp⟩⟩
    · rw [hdec]
      exact ⟨v, rfl, .inl rfl⟩

/-- Settles O3: each word is read off the decoder; the offers are of a fixed size. -/
theorem specWordsDecode : Obligations.SpecWordsDecode := by
  refine ⟨?short, ?long, ?partialArrival, ?cipher, ?illegal, ?command, ?reserved, ?plain, ?completed⟩ <;> decide

end Sys2Proof.Machine

/-!
The step (00_scope.md R13): the offer it takes and what it runs; bytes that arrive together against the same bytes one
by one (30_encoding.md R121, 42_framer.md R193).
-/

namespace Sys2Proof.Machine

/-! ### The step by what the offer decodes to -/

theorem step_of_decode_ok {s : State} {o : Offer} {rest : List Offer} {i : Instr} (hs : s.sched = o :: rest)
    (hd : decode o = .ok i) : step s = exec i (s.takeOffer rest) := by
  simp only [step, hs, hd]

theorem step_of_decode_error {s : State} {o : Offer} {rest : List Offer} {e : DecodeError} (hs : s.sched = o :: rest)
    (hd : decode o = .error e) : step s = runUndecoded o e (s.takeOffer rest) := by
  simp only [step, hs, hd]

/-- A word that decodes is laid out as an offer that decodes. -/
theorem exists_offer_of_decodeTableWord {nbits w : Nat} {i : Instr} (h : decodeTableWord nbits w = some i) :
    ∃ o, tableOffer nbits w = some o ∧ decode o = .ok i := by
  unfold decodeTableWord at h
  split at h
  · cases h
  · next o ho =>
    split at h
    · next j hj =>
      cases h
      exact ⟨o, ho, hj⟩
    · cases h

/-- Only bytes, and events whose instruction has an encoding, are ever rejected. -/
theorem decode_error_cases {o : Offer} {e : DecodeError} (h : decode o = .error e) :
    (∃ bytes, o = .wire bytes) ∨ ∃ i, o = .event i ∧ i.isEvent = false := by
  cases o with
  | wire bytes => exact .inl ⟨bytes, rfl⟩
  | hostWrite n v => cases h
  | event i =>
    simp only [decode] at h
    split_ifs at h with hi
    exact .inr ⟨i, rfl, Bool.not_eq_true _ ▸ hi⟩

/-! ### Sequences of instructions -/

theorem runAll_cons {i : Instr} {s t : State} (h : exec i s = .next t) (is : List Instr) :
    runAll (i :: is) s = runAll is t := by
  rw [runAll, h]

theorem runAll_append {is : List Instr} {s t : State} (h : runAll is s = .next t) (js : List Instr) :
    runAll (is ++ js) s = runAll js t := by
  induction is generalizing s with
  | nil =>
    cases h
    rfl
  | cons i is ih =>
    obtain ⟨u, hu⟩ := exec_next i s
    rw [runAll_cons hu] at h
    rw [List.cons_append, runAll_cons hu, ih h]

/-! ### Bytes one by one -/

/-- RX.BYTE on a port that is not ready (log entry 3). -/
theorem exec_rxByte_of_not_rxbReady {s : State} (h : s.rxbReady = false) (b : Byte) :
    exec (.rxByte b) s = .next (s.respond .notReady) := by
  have harm : exec (.rxByte b) s = execRxByte b s := rfl
  rw [harm, execRxByte, h]
  rfl

/-- Once RXB is not ready it stays so, and the bytes change nothing but the answer. -/
theorem runAll_rxBytes_of_not_rxbReady {s : State} (h : s.rxbReady = false) (bs : List Byte) :
    ∃ u, runAll (rxBytes bs) s = .next u ∧ SameButAnswer s u := by
  induction bs generalizing s with
  | nil => exact ⟨s, rfl, rfl⟩
  | cons b bs ih =>
    obtain ⟨u, hu, hsame⟩ := ih (s := s.respond .notReady) h
    exact ⟨u, (runAll_cons (exec_rxByte_of_not_rxbReady h b) _).trans hu, hsame⟩

theorem rxFeed_cons_of_not_rxbReady {s : State} (h : s.rxbReady = false) (b : Byte) (bs : List Byte) :
    rxFeed (b :: bs) s = s.respond (.stalled (b :: bs)) := by
  rw [rxFeed, h]
  rfl

/-- A byte that raises ends the bytes that arrived with it (R121). -/
theorem rxFeed_cons_of_faulted {s : State} {b : Byte} {x : Raised} (hready : s.rxbReady = true)
    (h : rxAccept b s = s.faulted .rx x) (bs : List Byte) : rxFeed (b :: bs) s = s.faulted .rx x := by
  rw [rxFeed, if_pos hready, h]
  exact if_pos rfl

/-- The grouping of bytes makes no difference but for the answer (R193): after a fault, and after RXB stops being ready,
the bytes that follow are not taken one by one either. -/
theorem runAll_rxBytes (bs : List Byte) (s : State) :
    ∃ u, runAll (rxBytes bs) s = .next u ∧ SameButAnswer (rxFeed bs s) u := by
  induction bs generalizing s with
  | nil => exact ⟨s, rfl, rfl⟩
  | cons b bs ih =>
    cases hready : s.rxbReady with
    | false =>
      rw [rxFeed_cons_of_not_rxbReady hready]
      exact runAll_rxBytes_of_not_rxbReady hready (b :: bs)
    | true =>
      have hbyte := exec_rxByte_of_rxbReady hready b
      rcases rxAccept_cases b s with ⟨-, haccept⟩ | ⟨x, -, haccept⟩
      · obtain ⟨-, hfault, -⟩ := rxbReady_iff.mp hready
        obtain ⟨u, hu, hsame⟩ := ih { s with rxbuf := s.rxbuf ++ [b], resp := .done }
        rw [haccept] at hbyte
        rw [rxFeed_cons_ok hready haccept hfault]
        exact ⟨u, (runAll_cons hbyte _).trans hu, hsame⟩
      · obtain ⟨u, hu, hsame⟩ := runAll_rxBytes_of_not_rxbReady (s := s.faulted .rx x) (rxbReady_of_fault rfl) bs
        rw [haccept] at hbyte
        rw [rxFeed_cons_of_faulted hready haccept]
        exact ⟨u, (runAll_cons hbyte _).trans hu, hsame⟩

/-- RX.PROCESS does not read the answer of the step before. -/
theorem rxProcess_respond (s : State) (r : Response) : rxProcess (s.respond r) = rxProcess s := rfl

theorem rxProcess_congr {s t : State} (h : SameButAnswer s t) : rxProcess s = rxProcess t := by
  rw [← rxProcess_respond s .done, h, rxProcess_respond]

/-- A whole frame put byte by byte on a waiting path, and then RX.PROCESS. -/
theorem runAll_wholeFrame {s : State} (hwait : RxWaiting s) {f : List Byte} (h : wholeFrame f = true)
    (is : List Instr) : runAll (rxBytes f ++ .rxProcess :: is) s = runAll is (rxProcess (s.holding f)) := by
  obtain ⟨hen, hfault, hclosed, hempty⟩ := hwait
  obtain ⟨u, hu, hsame⟩ := runAll_rxBytes f s
  have hfeed := rxFeed_of_wholeFrame (rxOpen_iff.mpr ⟨hen, hfault, hclosed⟩) (s := s) (bs := f) (by rwa [hempty])
  rw [hempty, List.nil_append] at hfeed
  rw [hfeed] at hsame
  rw [runAll_append hu, rxProcess_congr hsame]
  exact runAll_cons rfl is

/-! ### The obligations -/

/-- Settles O4: the state without the offer is `takeOffer`. -/
theorem stepRunsDecoded : Obligations.StepRunsDecoded :=
  fun _ _ _ _ hs hd => step_of_decode_ok hs hd

/-- Settles O5: the placed offer stands first, and taking it off gives back the state it was placed in. -/
theorem stepRunsTableWord : Obligations.StepRunsTableWord := by
  intro s nbits w i h
  obtain ⟨o, hoffer, hdec⟩ := exists_offer_of_decodeTableWord h
  have hplaced : (s.withFetchWord nbits w).sched = o :: s.sched := by
    rw [State.withFetchWord, hoffer]
    rfl
  have htaken : (s.withFetchWord nbits w).takeOffer s.sched = s := by
    rw [State.withFetchWord, hoffer]
    rfl
  rw [step_of_decode_ok hplaced hdec, htaken]

/-- Settles O6: of the three things a step can do, the other two take an offer. -/
theorem idleStepProcesses : Obligations.IdleStepProcesses := by
  intro s hs
  rcases step_cases s with ⟨-, h⟩ | ⟨o, rest, i, ho, -⟩ | ⟨o, rest, e, ho, -⟩
  · exact h
  · cases hs.symm.trans ho
  · cases hs.symm.trans ho

/-- Settles O7: rejected bytes run through `rxFeed`, which RX.BYTE one by one agrees with; of the offers that decode to
nothing only an event with an encoding stops the model, and no instruction does. -/
theorem stepOnRejectedOffer : Obligations.StepOnRejectedOffer := by
  refine ⟨fun s bytes rest e hs hd => ?bytes, fun s i rest hs hi => ?encodedEvent, fun s f hstop => ?onlyStop⟩
  case bytes =>
    obtain ⟨u, hu, hsame⟩ := runAll_rxBytes bytes (s.takeOffer rest)
    exact ⟨_, u, step_of_decode_error hs hd, hu, hsame⟩
  case encodedEvent =>
    have hd : decode (.event i) = .error .encodedRow := by simp [decode, hi]
    exact step_of_decode_error hs hd
  case onlyStop =>
    have hnext (i : Instr) (t : State) : exec i t ≠ .fault f := by
      obtain ⟨u, hu⟩ := exec_next i t
      simp [hu]
    rcases step_cases s with ⟨-, h⟩ | ⟨o, rest, i, -, -, h⟩ | ⟨o, rest, e, ho, hd, h⟩
    · exact absurd (h.symm.trans hstop) (hnext _ _)
    · exact absurd (h.symm.trans hstop) (hnext _ _)
    · rcases decode_error_cases hd with ⟨bytes, rfl⟩ | ⟨i, rfl, hi⟩
      · cases h.symm.trans hstop
      · exact ⟨i, rest, ho, hi⟩

/-- Settles O8: the bytes of a frame whose length field is filled in are a whole frame, taken together or one by one. -/
theorem frameIsItsBytes : Obligations.FrameIsItsBytes := by
  intro s content hwait
  have sameAsBytes {f : List Byte} (h : wholeFrame f = true) :
      .next (rxFrame f s) = runAll (rxBytes f ++ [.rxProcess]) s := by
    rw [rxFrame_of_wholeFrame hwait h, runAll_wholeFrame hwait h]
    rfl
  refine ⟨fun hfit => sameAsBytes (wholeFrame_frameOf (t := 0xC1) rfl hfit), fun hfit => ?_⟩
  have long {t : Byte} (hrec : isRecognized t = true) (hlong : hdrLen t = 3) :
      wholeFrame (longOf t content) = true := by
    rw [longOf_eq_frameOf hlong]
    exact wholeFrame_frameOf hrec (by rwa [maxContent, hlong])
  exact ⟨sameAsBytes (long rfl rfl), sameAsBytes (long rfl rfl), sameAsBytes (long rfl rfl)⟩

end Sys2Proof.Machine

/-!
The steps of the stream ports: the ones that wait (00_scope.md R13; log entry 3), closing, aborting and delivering
(42_framer.md R191, R192, 44_stream_decryptor.md R238, 43_stream_encryptor.md R216 to R218), and draining TXOUT
(30_encoding.md R121).
-/

namespace Sys2Proof.Machine

/-! ### When a port step waits -/

theorem rxbReady_eq_false_iff {s : State} :
    s.rxbReady = false ↔ s.rxEn = false ∨ s.fault = true ∨ s.rxClosed = true ∨ s.rxState = .emit := by
  simp [State.rxbReady, -Bool.and_eq_false_imp, Bool.and_eq_false_iff, or_assoc]

theorem rxProcessReady_eq_false_iff {s : State} :
    s.rxProcessReady = false ↔ s.rxEn = false ∨ s.fault = true ∨ s.rxState ≠ .emit ∨ s.outf ≠ none := by
  simp [State.rxProcessReady, -Bool.and_eq_false_imp, Bool.and_eq_false_iff, or_assoc, Option.isSome_iff_ne_none]

theorem rxfValid_eq_false_iff {s : State} : s.rxfValid = false ↔ s.fault = true ∨ s.outf = none := by
  simp [State.rxfValid, -Bool.and_eq_false_imp, Bool.and_eq_false_iff]

theorem rxOpen_eq_false_iff {s : State} : s.rxOpen = false ↔ s.rxEn = false ∨ s.fault = true ∨ s.rxClosed = true := by
  simp [State.rxOpen, -Bool.and_eq_false_imp, Bool.and_eq_false_iff, or_assoc]

theorem txfReady_eq_false_iff {s : State} :
    s.txfReady = false ↔ s.txEn = false ∨ s.fault = true ∨ s.txClosed = true ∨ s.txout ≠ [] := by
  simp [State.txfReady, -Bool.and_eq_false_imp, Bool.and_eq_false_iff, or_assoc]

theorem txbValid_eq_false_iff {s : State} : s.txbValid = false ↔ s.fault = true ∨ s.txout = [] := by
  simp [State.txbValid, -Bool.and_eq_false_imp, Bool.and_eq_false_iff]

theorem txOpen_eq_false_iff {s : State} : s.txOpen = false ↔ s.txEn = false ∨ s.fault = true ∨ s.txClosed = true := by
  simp [State.txOpen, -Bool.and_eq_false_imp, Bool.and_eq_false_iff, or_assoc]

/-- A step behind an enabling condition that is false. -/
theorem notReady_of_false {c : Bool} (h : c = false) (u : Result) (s : State) :
    (if c = true then u else notReady s) = .next { s with resp := .notReady } := by
  rw [h]
  rfl

theorem exec_rxDeliver_of_not_rxfValid {s : State} (h : s.rxfValid = false) :
    exec .rxDeliver s = .next { s with resp := .notReady } := by
  obtain ⟨t, ht⟩ := exec_next .rxDeliver s
  rcases execRxDeliver_cases ht with ⟨g, hrun, hg, -⟩ | ⟨-, rfl⟩
  · simp [State.rxfValid, hrun, hg] at h
  · exact ht

theorem exec_txByte_of_not_txbValid {s : State} (h : s.txbValid = false) :
    exec .txByte s = .next { s with resp := .notReady } := by
  obtain ⟨t, ht⟩ := exec_next .txByte s
  rcases execTxByte_cases ht with ⟨b, rest, hrun, hb, -⟩ | ⟨-, rfl⟩
  · simp [State.txbValid, hrun, hb] at h
  · exact ht

theorem exec_rxProcess_of_not_rxProcessReady {s : State} (h : s.rxProcessReady = false) :
    exec .rxProcess s = .next { s with resp := .notReady } := by
  have harm : exec .rxProcess s = .next (rxProcess s) := rfl
  rw [harm, rxProcess, h]
  rfl

/-! ### When a port step is taken -/

theorem exec_rxDeliver_of_outf {s : State} {g : List Byte} (hrun : s.fault = false) (hg : s.outf = some g) :
    exec .rxDeliver s = .next { s with outf := none, resp := .bytes g } := by
  have harm : exec .rxDeliver s = execRxDeliver s := rfl
  simp only [harm, execRxDeliver, hrun, hg, Bool.false_eq_true, if_false]

theorem exec_txByte_of_txout {s : State} {b : Byte} {rest : List Byte} (hrun : s.fault = false)
    (hb : s.txout = b :: rest) :
    exec .txByte s = .next { s with txout := rest, txPos := s.txPos + 1, resp := .byte b } := by
  have harm : exec .txByte s = execTxByte s := rfl
  simp only [harm, execTxByte, hrun, hb, Bool.false_eq_true, if_false]

/-- An empty buffer is not complete. -/
theorem rxbuf_ne_nil_of_emit {s : State} (h : s.rxState = .emit) : s.rxbuf ≠ [] := by
  intro hempty
  rw [State.rxState, hempty] at h
  cases h

/-- Bit 8 of STATUS is RX_DONE, bit 7 TXOUT_BUSY, bit 9 TX_DONE (R32). -/
theorem statusWord_rxDone (s : State) : s.statusWord.getLsbD 8 = s.rxDone := by
  rw [getLsbD_statusWord s _ (by decide)]
  simp

theorem statusWord_txoutBusy (s : State) : s.statusWord.getLsbD 7 = !s.txout.isEmpty := by
  rw [getLsbD_statusWord s _ (by decide)]
  simp

theorem statusWord_txDone (s : State) : s.statusWord.getLsbD 9 = s.txDone := by
  rw [getLsbD_statusWord s _ (by decide)]
  simp

/-! ### Draining (R121) -/

/-- TX.BYTE as often as TXOUT has bytes. -/
theorem runAnswers_txByte {s : State} (hrun : s.fault = false) {bs : List Byte} (hbs : s.txout = bs) :
    ∃ u, runAnswers (List.replicate bs.length .txByte) s = some (bs.map Response.byte, u) ∧
      SameButAnswer u { s with txout := [], txPos := s.txPos + BitVec.ofNat 64 bs.length } := by
  induction bs generalizing s with
  | nil =>
    have hstay : s.txPos + BitVec.ofNat 64 0 = s.txPos := BitVec.add_zero _
    refine ⟨s, rfl, ?_⟩
    rw [List.length_nil, hstay, ← hbs]
  | cons b bs ih =>
    obtain ⟨u, hu, hsame⟩ :=
      ih (s := { s with txout := bs, txPos := s.txPos + 1, resp := .byte b }) hrun rfl
    have hcount : s.txPos + BitVec.ofNat 64 (bs.length + 1) = s.txPos + 1 + BitVec.ofNat 64 bs.length := by
      rw [Nat.add_comm, BitVec.ofNat_add, BitVec.add_assoc]
      rfl
    refine ⟨u, ?_, ?_⟩
    · simp only [List.length_cons, List.replicate_succ, runAnswers, exec_txByte_of_txout hrun hbs, hu, List.map_cons]
    · rw [List.length_cons, hcount]
      exact hsame

/-! ### The obligations -/

/-- Settles O20: the two closing steps are taken on an open path, and RX_DONE is read off the buffers they leave. -/
theorem rxCloseAbortDeliver : Obligations.RxCloseAbortDeliver := by
  refine ⟨fun s hen hrun hclosed => ?closing, fun s g hrun hg => exec_rxDeliver_of_outf hrun hg⟩
  have hopen : s.rxOpen = true := rxOpen_iff.mpr ⟨hen, hrun, hclosed⟩
  have hclose : exec .rxClose s = .next { s with
      rxClosed := true, rxbuf := if s.rxState = .emit then s.rxbuf else [], resp := .done } := if_pos hopen
  have habort : exec .rxAbort s = .next { s with rxClosed := true, rxbuf := [], outf := none, resp := .done } :=
    if_pos hopen
  refine ⟨hclose, habort, fun t ht => ?doneAfterClose, fun t ht => ?doneAfterAbort⟩
  case doneAfterClose =>
    cases hclose.symm.trans ht
    rw [rxDone_iff]
    by_cases hemit : s.rxState = .emit
    · simp [hemit, rxbuf_ne_nil_of_emit hemit]
    · simp [hemit]
  case doneAfterAbort =>
    cases habort.symm.trans ht
    rw [statusWord_rxDone]
    exact ⟨rfl, rfl⟩

/-- Settles O26: TX.BYTE takes the first byte, and the closing steps are taken on an open path; the flags are read off
TXOUT. -/
theorem txByteCloseAbort : Obligations.TxByteCloseAbort := by
  refine ⟨fun s b rest hrun hb => ⟨_, exec_txByte_of_txout hrun hb, rfl, ?busy, ?done⟩,
    fun s hen hrun hclosed => ?closing⟩
  case busy =>
    rw [statusWord_txoutBusy]
    simp
  case done => rw [statusWord_txDone, txDone_iff]
  case closing =>
    have hopen : s.txOpen = true := txOpen_iff.mpr ⟨hen, hrun, hclosed⟩
    have hclose : exec .txClose s = .next { s with txClosed := true, resp := .done } := if_pos hopen
    have habort : exec .txAbort s = .next { s with txClosed := true, txout := [], resp := .done } := if_pos hopen
    refine ⟨hclose, habort, fun t ht => ?_, fun t ht => ?_⟩
    · cases hclose.symm.trans ht
      simp [txDone_iff]
    · cases habort.symm.trans ht
      rfl

/-- Settles O27: byte by byte from the front, one added to TX_POS for each. -/
theorem txDrain : Obligations.TxDrain :=
  fun _ hrun => runAnswers_txByte hrun rfl

/-- Settles O28: each step stands behind its enabling condition, whose negation is the one named. -/
theorem portStepsWait : Obligations.PortStepsWait := by
  intro s
  refine ⟨fun b h => exec_rxByte_of_not_rxbReady (rxbReady_eq_false_iff.mpr h) b,
    fun h => exec_rxProcess_of_not_rxProcessReady (rxProcessReady_eq_false_iff.mpr h),
    fun h => exec_rxDeliver_of_not_rxfValid (rxfValid_eq_false_iff.mpr h), fun h => ?rxClosing,
    fun f h => notReady_of_false (txfReady_eq_false_iff.mpr h) _ s,
    fun h => exec_txByte_of_not_txbValid (txbValid_eq_false_iff.mpr h), fun h => ?txClosing⟩
  case rxClosing =>
    have hwait := rxOpen_eq_false_iff.mpr h
    exact ⟨notReady_of_false hwait _ s, notReady_of_false hwait _ s⟩
  case txClosing =>
    have hwait := txOpen_eq_false_iff.mpr h
    exact ⟨notReady_of_false hwait _ s, notReady_of_false hwait _ s⟩

end Sys2Proof.Machine

/-!
What the two paths produce when they do not fault (43_stream_encryptor.md R212, 44_stream_decryptor.md R231, R237): the
frame, the counter after it and the warnings.
-/

namespace Sys2Proof.Machine

/-! ### The enciphered frame (R212) -/

theorem txStream_eq_logicalStream (s : State) (content : List Byte) :
    s.txStream content = logicalStream s.variant s.txCtr content := by
  rw [State.txStream, logicalStream]
  cases s.variant <;> rfl

theorem nextCounter_txCtr (s : State) : nextCounter s.variant s.txCtr = s.nextTxCtr := by
  rw [nextCounter_eq, State.nextTxCtr]
  cases s.variant <;> rfl

theorem getElem_encStream (v : Variant) (bank : KeyBank) (s : List Byte) (k : Nat)
    (h : k < (encStream v bank s).length) : (encStream v bank s)[k] = encBlock v bank (chunk v.blockCap s k) := by
  simp [encStream, txChunks]

/-- A long header leaves room for 65532 bytes (R94). -/
theorem maxContent_of_long {t : Byte} (hlong : hdrLen t = 3) : maxContent t = 65532 := by
  rw [maxContent, hlong, if_neg (by decide)]

/-- A recognized cipher-qualifying type is 0xC3 or 0xC4 (R90, R92). -/
theorem cipherType_of_isCipher {t : Byte} (hrec : isRecognized t = true) (hc : isCipher t = true) :
    t = 0xC3 ∨ t = 0xC4 := by
  rcases isRecognized_iff.mp hrec with rfl | rfl | h
  · cases hc
  · cases hc
  · exact h

/-- What TX.FRAME puts into TXOUT is a whole frame; the counter stays or is advanced (R212, R219). -/
theorem encryptFrame_ok {v : Variant} {bank : KeyBank} {ctr ctr' : Byte} {f out : List Byte}
    (h : encryptFrame v bank ctr f = .ok (out, ctr')) :
    wholeFrame out = true ∧ (ctr' = ctr ∨ ctr' = nextCounter v ctr) := by
  have hwhole (hvalid : validateTx f = .ok ()) : wholeFrame f = true := by
    rcases validateTx_cases f with ⟨-, herr⟩ | ⟨-, -, herr⟩ | ⟨-, -, herr⟩ | ⟨hf, -⟩
    · cases herr.symm.trans hvalid
    · cases herr.symm.trans hvalid
    · cases herr.symm.trans hvalid
    · exact hf
  rcases encryptFrame_cases v bank ctr f with ⟨x, -, henc⟩ | ⟨hvalid, -, henc⟩ | ⟨hvalid, hc, henc⟩
  · cases henc.symm.trans h
  · cases henc.symm.trans h
    exact ⟨hwhole hvalid, .inl rfl⟩
  · obtain ⟨hrec, -, -⟩ := wholeFrame_iff.mp (hwhole hvalid)
    obtain ⟨-, -, hlong⟩ := isCipher_of_cipherType (cipherType_of_isCipher hrec hc)
    rcases encryptContent_cases v bank ctr hlong (f.drop (hdrLen (f.getD 0 0))) with
      ⟨-, hcont⟩ | ⟨-, x, -, hcont⟩ | ⟨hlen, -, hcont⟩
    · cases (henc.trans hcont).symm.trans h
    · cases (henc.trans hcont).symm.trans h
    · cases (henc.trans hcont).symm.trans h
      rw [encipheredLen_eq v ctr, ← flatten_encStream_length v bank] at hlen
      exact ⟨wholeFrame_frameOf hrec (by rw [maxContent_of_long hlong]; omega), .inr rfl⟩

/-! ### The deciphered frame (R231) -/

/-- A block loop that does not fault decoded every block (R231). -/
theorem forall₂_of_decBlocks_ok {v : Variant} {bank : KeyBank} {ctr : Byte} {lenient : Bool} {k : Nat}
    {cs : List (List Byte)} {s : List Byte} {warns : Nat} (h : decBlocks v bank ctr lenient k cs = .ok (s, warns)) :
    ∃ ds, List.Forall₂ (fun c d => blkDec v bank c lenient = .ok d) cs ds ∧
      s = ds.flatMap (fun d => d.plain.take d.usedLen.toNat) ∧ warns = ds.countP (·.warned) := by
  induction cs generalizing k s warns with
  | nil =>
    cases h
    exact ⟨[], .nil, rfl, rfl⟩
  | cons c cs ih =>
    cases hdec : blkDec v bank c lenient with
    | error x => cases (decBlocks_cons_of_blkDec_error hdec ctr k cs).symm.trans h
    | ok d =>
      cases hcheck : checkCounter v ctr k d with
      | error x => cases (decBlocks_cons_of_checkCounter_error hdec hcheck cs).symm.trans h
      | ok _ =>
        cases hrest : decBlocks v bank ctr lenient (k + 1) cs with
        | error x => simp [decBlocks, hdec, hcheck, hrest] at h
        | ok r =>
          simp only [decBlocks, hdec, hcheck, hrest] at h
          cases h
          obtain ⟨ds, hds, hs, hw⟩ := ih hrest
          exact ⟨d :: ds, .cons hdec hds, by rw [hs, List.flatMap_cons], by rw [hw, List.countP_cons, Nat.add_comm]⟩

/-- A content that does not fault was decoded block by block; its bytes stand under a rewritten header (R231). -/
theorem decryptContent_ok {v : Variant} {bank : KeyBank} {ctr ctr' : Byte} {lenient : Bool} {t : Byte}
    {e g : List Byte} {warns : Nat} (h : decryptContent v bank ctr lenient t e = .ok (g, ctr', warns)) :
    ∃ ds, List.Forall₂ (fun c d => blkDec v bank c lenient = .ok d)
        (chunks v.encBlockSize (e.length / v.encBlockSize) e) ds ∧
      g = frameOf t ((ds.flatMap fun d => d.plain.take d.usedLen.toNat).drop (if v = .new then 1 else 0)) ∧
      ctr' = nextCounter v ctr ∧ warns = ds.countP (·.warned) := by
  simp only [decryptContent] at h
  split at h
  · cases h
  split at h
  · cases h
  cases hkeys : checkKeys (decKeys v bank) with
  | error x => simp [hkeys] at h
  | ok _ =>
    cases hloop : decBlocks v bank ctr lenient 0 (chunks v.encBlockSize (e.length / v.encBlockSize) e) with
    | error x => simp [hkeys, hloop] at h
    | ok r =>
      simp only [hkeys, hloop] at h
      cases h
      obtain ⟨ds, hds, hs, hw⟩ := forall₂_of_decBlocks_ok hloop
      refine ⟨ds, hds, ?_, rfl, hw⟩
      rw [hs]
      cases v <;> rfl

/-- Everything RX.PROCESS can deliver: the frame itself, or the deciphered content (R221, R231). -/
theorem decryptFrame_ok_cases {v : Variant} {bank : KeyBank} {ctr ctr' : Byte} {lenient : Bool} {f g : List Byte}
    {warns : Nat} (h : decryptFrame v bank ctr lenient f = .ok (g, ctr', warns)) :
    (g = f ∧ ctr' = ctr ∧ warns = 0) ∨
    (isCipher (f.getD 0 0) = true ∧
      decryptContent v bank ctr lenient (f.getD 0 0) (f.drop (hdrLen (f.getD 0 0))) = .ok (g, ctr', warns)) := by
  cases hc : isCipher (f.getD 0 0)
  · cases (decryptFrame_of_not_isCipher hc v bank ctr lenient).symm.trans h
    exact .inl ⟨rfl, rfl, rfl⟩
  · exact .inr ⟨rfl, by simpa only [decryptFrame, hc, if_true] using h⟩

/-- The blocks of a content recover at most the bytes they hold, fewer than the content has. -/
theorem length_recovered_le {v : Variant} {bank : KeyBank} {lenient : Bool} {cs : List (List Byte)}
    {ds : List Decoded} (h : List.Forall₂ (fun c d => blkDec v bank c lenient = .ok d) cs ds) :
    (ds.flatMap fun d => d.plain.take d.usedLen.toNat).length ≤ cs.length * v.encBlockSize := by
  induction h with
  | nil => exact Nat.zero_le _
  | @cons c d cs ds hdec _ ih =>
    have hplain := plain_length_of_blkDec_ok hdec
    have hsize : v.blockCap ≤ v.encBlockSize := by cases v <;> decide
    rw [List.flatMap_cons, List.length_append, List.length_take, List.length_cons, Nat.succ_mul]
    omega

/-- What RX.PROCESS puts into OUTF for a whole frame is a whole frame (R25, R231). -/
theorem wholeFrame_of_decryptFrame_ok {v : Variant} {bank : KeyBank} {ctr ctr' : Byte} {lenient : Bool}
    {f g : List Byte} {warns : Nat} (hf : wholeFrame f = true)
    (h : decryptFrame v bank ctr lenient f = .ok (g, ctr', warns)) : wholeFrame g = true := by
  rcases decryptFrame_ok_cases h with ⟨rfl, -, -⟩ | ⟨hc, hcont⟩
  · exact hf
  · obtain ⟨hrec, hhdr, htotal⟩ := wholeFrame_iff.mp hf
    obtain ⟨-, -, hlong⟩ := isCipher_of_cipherType (cipherType_of_isCipher hrec hc)
    obtain ⟨ds, hds, rfl, -, -⟩ := decryptContent_ok hcont
    have hmax : totalLen f ≤ 65535 := totalLen_le_rxbufCap f
    have hcontent : (f.drop (hdrLen (f.getD 0 0))).length ≤ 65532 := by rw [List.length_drop]; omega
    have hblocks := Nat.div_mul_le_self (f.drop (hdrLen (f.getD 0 0))).length v.encBlockSize
    have hrecovered := length_recovered_le hds
    rw [chunks_length] at hrecovered
    refine wholeFrame_frameOf hrec ?_
    rw [maxContent_of_long hlong, List.length_drop]
    omega

/-- RX_CTR after a frame (R34). -/
theorem counter_of_decryptFrame_ok {v : Variant} {bank : KeyBank} {ctr ctr' : Byte} {lenient : Bool}
    {f g : List Byte} {warns : Nat} (h : decryptFrame v bank ctr lenient f = .ok (g, ctr', warns)) :
    ctr' = ctr ∨ ctr' = nextCounter v ctr := by
  rcases decryptFrame_ok_cases h with ⟨-, rfl, -⟩ | ⟨-, hcont⟩
  · exact .inl rfl
  · obtain ⟨-, -, -, rfl, -⟩ := decryptContent_ok hcont
    exact .inr rfl

/-! ### Warnings (R237) -/

/-- In strict mode a checksum that does not match is a fault, not a warning (R154). -/
theorem not_warned_of_blkDec_strict {v : Variant} {bank : KeyBank} {c : List Byte} {d : Decoded}
    (h : blkDec v bank c false = .ok d) : d.warned = false := by
  rw [blkDec_of_checkKeys_ok c false (checkKeys_of_blkDec_ok h), checkTrailer_eq rfl] at h
  simp only [Bool.false_eq_true, if_false] at h
  split_ifs at h
  cases h
  rfl

theorem countP_warned_strict {v : Variant} {bank : KeyBank} {cs : List (List Byte)} {ds : List Decoded}
    (h : List.Forall₂ (fun c d => blkDec v bank c false = .ok d) cs ds) : ds.countP (·.warned) = 0 := by
  induction h with
  | nil => rfl
  | cons hdec _ ih => simp [ih, not_warned_of_blkDec_strict hdec]

/-- In strict mode no frame is delivered with a warning. -/
theorem no_warning_of_decryptFrame_strict {v : Variant} {bank : KeyBank} {ctr ctr' : Byte} {f g : List Byte}
    {warns : Nat} (h : decryptFrame v bank ctr false f = .ok (g, ctr', warns)) : warns = 0 := by
  rcases decryptFrame_ok_cases h with ⟨-, -, rfl⟩ | ⟨-, hcont⟩
  · rfl
  · obtain ⟨ds, hds, -, -, rfl⟩ := decryptContent_ok hcont
    exact countP_warned_strict hds

/-- WARN_CNT saturates (R36, R237). -/
theorem toNat_addWarnings (c : Word) (warns : Nat) :
    (addWarnings c warns).toNat = min (c.toNat + warns) 0xFFFFFFFF := by
  rw [addWarnings, BitVec.toNat_ofNat]
  omega

/-! ### The obligations -/

/-- Settles O21: the blocks are those of the logical stream's chunks, each BLK.ENC of its padded chunk. -/
theorem txFrameEnciphers : Obligations.TxFrameEnciphers := by
  intro s t content stream ht hwait hfit hlen husable hstream
  have hkeys : checkKeys (encKeys s.variant s.txk) = .ok () := checkKeys_slotKeys_of_usable _ _ husable
  obtain ⟨-, -, hlong⟩ := isCipher_of_cipherType ht
  rw [txStream_eq_logicalStream] at hstream
  refine ⟨encStream s.variant s.txk stream, encStream_length .., fun k hk => ⟨_, rfl, ?block⟩, ?frame⟩
  case block =>
    have hchunk : (chunk s.variant.blockCap stream k).length ≤ s.variant.blockCap := List.length_take_le ..
    rw [List.getD_eq_getElem _ _ hk, getElem_encStream]
    exact blkEnc_paddedBlock hkeys hchunk
  case frame =>
    rw [longOf_eq_frameOf hlong, longOf_eq_frameOf hlong, ← nextCounter_txCtr, hstream]
    rcases exec_txFrame_cipher_cases hwait ht hfit with ⟨hover, -⟩ | ⟨-, x, herr, -⟩ | ⟨-, -, hexec⟩
    · omega
    · cases hkeys.symm.trans herr
    · exact hexec

/-- Settles O10: blocks that decode are delivered under a rewritten header, assembled or as a wire frame. -/
theorem cipherFrameIsDeciphered : Obligations.CipherFrameIsDeciphered := by
  intro s t mk blocks ds plain hclass hfit husable hok hcounter hplain
  have ht := cipherType_of_cipherClass hclass
  obtain ⟨-, -, hlong⟩ := isCipher_of_cipherType ht
  have hdec := decryptFrame_of_blocksOk ht (checkKeys_slotKeys_of_usable _ _ husable) hok hcounter
  rw [← hplain, ← longOf_eq_frameOf hlong plain] at hdec
  exact endsIn_delivered hclass hfit hdec

/-- Settles O16: a frame that is delivered adds its warnings, none in strict mode; fault entry leaves WARN_CNT alone. -/
theorem warnings : Obligations.Warnings := by
  intro s t hen hrun hemit houtf hexec
  cases hexec
  rcases rxProcess_cases s with ⟨hwait, -⟩ | ⟨-, g, ctr, warns, hdec, h⟩ | ⟨-, x, -, h⟩
  · cases hwait.symm.trans (rxProcessReady_iff.mpr ⟨hen, hrun, hemit, houtf⟩)
  · rw [h]
    refine ⟨fun _ => ⟨warns, rfl, toNat_addWarnings s.warnCnt warns, fun hstrict => ?_⟩, fun hhalt => ?_⟩
    · rw [hstrict] at hdec
      exact no_warning_of_decryptFrame_strict hdec
    · cases hrun.symm.trans hhalt
  · rw [h]
    exact ⟨fun hrun' => (nomatch hrun'), fun _ => rfl⟩

end Sys2Proof.Machine

/-!
Register writes (45_system_ops.md R261): the storage registers and windows, the registers that lock with their path, and
the numbers that ignore the write.
-/

namespace Sys2Proof.Machine

/-! ### Numbers that ignore a write -/

theorem csrOf_of_low {n : BitVec 12} (h : n.toNat < 0x020) : csrOf n = lowCsr n.toNat := if_pos h

/-- The registers of the status block that only the core writes (R30). -/
theorem writeNumber_of_readOnly {n : BitVec 12}
    (h : (0x001 ≤ n.toNat ∧ n.toNat ≤ 0x006) ∨ (0x009 ≤ n.toNat ∧ n.toNat ≤ 0x00E) ∨ n = 0x011) (s : State) (v : Word) :
    writeNumber s n v = s := by
  rcases h with ⟨hlo, hhi⟩ | ⟨hlo, hhi⟩ | rfl
  · rw [writeNumber, csrOf_of_low (by omega)]
    generalize n.toNat = k at hlo hhi
    interval_cases k <;> rfl
  · rw [writeNumber, csrOf_of_low (by omega)]
    generalize n.toNat = k at hlo hhi
    interval_cases k <;> rfl
  · rfl

theorem writeNumber_of_unmapped {n : BitVec 12} (h : Unmapped n) (s : State) (v : Word) : writeNumber s n v = s := by
  rw [writeNumber, csrOf_of_unmapped h]

/-- A write that the register map ignores, as an instruction. -/
theorem csrWrites_of_ignored {s : State} {n : BitVec 12} {v : Word} (h : writeNumber s n v = s) :
    CsrWrites s n v s := by
  have harm : exec (.csrWr n v) s = .next ((writeNumber s n v).respond .done) := rfl
  rw [CsrWrites, harm, h]
  rfl

/-! ### Windows and key registers -/

/-- A window write replaces the bytes of its register (R39). -/
theorem getElem_windowWrite {n : Nat} (b : Vector Byte n) (r : Nat) (v : Word) (k : Fin n) :
    (windowWrite b r v)[k] = if k.val / 4 = r then v.extractLsb' (8 * (k % 4)) 8 else b[k] := by
  have hk : k.val < (b.toList.mapIdx fun j x => if j / 4 = r then v.extractLsb' (8 * (j % 4)) 8 else x).length := by
    simp
  rw [windowWrite, bufOf_get, List.getD_eq_getElem _ _ hk, List.getElem_mapIdx]
  simp

/-- The numbers of RXK and of TXK (R30, R40). -/
theorem csrOf_rxk {n : BitVec 12} (hlo : 0x200 ≤ n.toNat) (hhi : n.toNat < 0x240) : csrOf n = some (keyCsr .rxk n) := by
  rw [csrOf, if_neg (by omega), if_neg (by omega), dif_neg (by omega), if_neg (by omega), if_pos ⟨hlo, hhi⟩]

theorem csrOf_txk {n : BitVec 12} (hlo : 0x100 ≤ n.toNat) (hhi : n.toNat < 0x140) : csrOf n = some (keyCsr .txk n) := by
  rw [csrOf, if_neg (by omega), if_neg (by omega), dif_neg (by omega), if_pos ⟨hlo, hhi⟩]

/-- A write of a mapped number, by what the write of its register is (R261). -/
theorem csrWrites_of_writeCsr {s u : State} {n : BitVec 12} {r : Csr} {v : Word} (hn : csrOf n = some r)
    (hu : writeCsr s r v = u) : CsrWrites s n v u :=
  hu ▸ csrWrites_of_csrOf hn s v

/-- A key register of a disabled path is written. -/
theorem csrWrites_rxk {s : State} (hen : s.rxEn = false) (file : KeyFile) (i : Fin 16) (v : Word) :
    CsrWrites s (keyFileNumber .rxk file + BitVec.ofNat 12 i) v { s with rxk := s.rxk.write file i v } :=
  csrWrites_of_writeCsr (csrOf_key .rxk file i) (by simp [writeCsr, writeKey, hen])

theorem csrWrites_txk {s : State} (hen : s.txEn = false) (file : KeyFile) (i : Fin 16) (v : Word) :
    CsrWrites s (keyFileNumber .txk file + BitVec.ofNat 12 i) v { s with txk := s.txk.write file i v } :=
  csrWrites_of_writeCsr (csrOf_key .txk file i) (by simp [writeCsr, writeKey, hen])

/-- A key register of an enabled path ignores the write. -/
theorem csrWrites_rxk_locked {s : State} (hen : s.rxEn = true) {n : BitVec 12} (hlo : 0x200 ≤ n.toNat)
    (hhi : n.toNat < 0x240) (v : Word) : CsrWrites s n v s :=
  csrWrites_of_writeCsr (csrOf_rxk hlo hhi) (by simp [keyCsr, writeCsr, writeKey, hen])

theorem csrWrites_txk_locked {s : State} (hen : s.txEn = true) {n : BitVec 12} (hlo : 0x100 ≤ n.toNat)
    (hhi : n.toNat < 0x140) (v : Word) : CsrWrites s n v s :=
  csrWrites_of_writeCsr (csrOf_txk hlo hhi) (by simp [keyCsr, writeCsr, writeKey, hen])

/-! ### The obligations -/

/-- Settles O37: each number names its register by the map; the storage registers take the write, the rest ignore it. -/
theorem csrWriteStorage : Obligations.CsrWriteStorage := by
  intro s v
  refine ⟨fun n hn => csrWrites_of_ignored ?ignored, csrWrites_of_csrOf (r := .blkLen) rfl s v,
    csrWrites_of_csrOf (r := .pkSlot) rfl s v, csrWrites_of_csrOf (r := .pkVal) rfl s v,
    fun r => ⟨_, csrWrites_of_csrOf (csrOf_dpb r) s v, getElem_windowWrite s.dpb r v⟩,
    fun r => ⟨_, csrWrites_of_csrOf (csrOf_dcb r) s v, getElem_windowWrite s.dcb r v⟩⟩
  case ignored =>
    rcases hn with hn | hn | hn | hn
    · exact writeNumber_of_readOnly (.inl hn) s v
    · exact writeNumber_of_readOnly (.inr (.inl hn)) s v
    · exact writeNumber_of_readOnly (.inr (.inr hn)) s v
    · exact writeNumber_of_unmapped hn s v

/-- Settles O38: a counter and a key register look at the enable bit of their own path and at nothing else. -/
theorem csrWriteLocks : Obligations.CsrWriteLocks := by
  intro s v i
  have rxCtr {u : State} (hu : writeCsr s .rxCtr v = u) : CsrWrites s 0x007 v u := csrWrites_of_writeCsr rfl hu
  have txCtr {u : State} (hu : writeCsr s .txCtr v = u) : CsrWrites s 0x008 v u := csrWrites_of_writeCsr rfl hu
  refine ⟨fun hen => ?rxWritten, fun hen => ?rxLocked, fun hen => ?txWritten, fun hen => ?txLocked⟩
  case rxWritten =>
    exact ⟨rxCtr (by simp [writeCsr, hen]), csrWrites_rxk hen .mod i v, csrWrites_rxk hen .enc i v,
      csrWrites_rxk hen .dec i v, csrWrites_rxk hen .xork i v⟩
  case rxLocked =>
    exact ⟨rxCtr (by simp [writeCsr, hen]), fun n hlo hhi => csrWrites_rxk_locked hen hlo hhi v⟩
  case txWritten =>
    exact ⟨txCtr (by simp [writeCsr, hen]), csrWrites_txk hen .mod i v, csrWrites_txk hen .enc i v,
      csrWrites_txk hen .dec i v, csrWrites_txk hen .xork i v⟩
  case txLocked =>
    exact ⟨txCtr (by simp [writeCsr, hen]), fun n hlo hhi => csrWrites_txk_locked hen hlo hhi v⟩

end Sys2Proof.Machine

/-!
What an instruction can write (10_state.md R21, 20_memory.md R73, 70_reset_and_hazards.md R371), said once for each of
the three kinds that are no reset: a step of the RX path, a step of the TX path, and an instruction of neither.
-/

namespace Sys2Proof.Machine

/-! ### The effects -/

/-- What a step of the RX path can do: move the RX path on, or enter a fault from the state before it. -/
inductive RxEffect (s : State) : State → Prop
  | moved (buf : List Byte) (outf : Option (List Byte)) (pos : Dword) (closed : Bool) (ctr : Byte) (warns : Word)
      (r : Response) (hctr : ctr = s.rxCtr ∨ ctr = nextCounter s.variant s.rxCtr) :
      RxEffect s { s with
        rxbuf := buf, outf := outf, rxPos := pos, rxClosed := closed, rxCtr := ctr, warnCnt := warns, resp := r }
  | faulted (x : Raised) (hrun : s.fault = false) : RxEffect s (s.faulted .rx x)

/-- What a step of the TX path can do; only TX.FRAME moves the counter. -/
inductive TxEffect (i : Instr) (s : State) : State → Prop
  | moved (out : List Byte) (pos : Dword) (closed : Bool) (ctr : Byte) (r : Response)
      (hctr : ctr = s.txCtr ∨ (ctr = nextCounter s.variant s.txCtr ∧ ∃ f, i = .txFrame f)) :
      TxEffect i s { s with txout := out, txPos := pos, txClosed := closed, txCtr := ctr, resp := r }
  | faulted (x : Raised) (hrun : s.fault = false) : TxEffect i s (s.faulted .tx x)

/-- The command of a code, as its own row or as the register write that is it (R110, R120). -/
abbrev IsCommand (i cmd : Instr) (code : Byte) : Prop :=
  i = cmd ∨ ∃ v, i = .csrWr 0x00F v ∧ v.setWidth 8 = code

/-- What an instruction that is no reset and no step of a path can do. -/
inductive HostEffect (i : Instr) (s : State) : State → Prop
  | storage (len : Byte) (st : Word) (slot : BitVec 4) (val : Field) (dp : Vector Byte 32) (dc : Vector Byte 38)
      (r : Response) :
      HostEffect i s { s with
        blkLen := len, blkStatus := st, pkSlot := slot, pkVal := val, dpb := dp, dcb := dc, resp := r }
  | ctrl (v : Word) : HostEffect i s ((writeCtrl s v).respond .done)
  | rxUnlocked (hen : s.rxEn = false) (ctr : Byte) (bank : KeyBank) :
      HostEffect i s { s with rxCtr := ctr, rxk := bank, resp := .done }
  | txUnlocked (hen : s.txEn = false) (ctr : Byte) (bank : KeyBank) :
      HostEffect i s { s with txCtr := ctr, txk := bank, resp := .done }
  | rxCtrReset (hrun : s.fault = false) (hi : IsCommand i .cmdRxCtrReset 0x02) :
      HostEffect i s { s with rxCtr := 0, resp := .done }
  | txCtrReset (hrun : s.fault = false) (hi : IsCommand i .cmdTxCtrReset 0x03) :
      HostEffect i s { s with txCtr := 0, resp := .done }

/-! ### The steps of the RX path -/

/-- An answer alone is an effect of either path. -/
theorem RxEffect.respond (s : State) (r : Response) : RxEffect s (s.respond r) :=
  .moved s.rxbuf s.outf s.rxPos s.rxClosed s.rxCtr s.warnCnt r (.inl rfl)

theorem TxEffect.respond (i : Instr) (s : State) (r : Response) : TxEffect i s (s.respond r) :=
  .moved s.txout s.txPos s.txClosed s.txCtr r (.inl rfl)

theorem rxProcess_effect (s : State) : RxEffect s (rxProcess s) := by
  rcases rxProcess_cases s with ⟨-, h⟩ | ⟨-, g, ctr, warns, hdec, h⟩ | ⟨hready, x, -, h⟩
  · exact h ▸ .respond s .notReady
  · exact h ▸ .moved [] (some g) _ s.rxClosed ctr _ _ (counter_of_decryptFrame_ok hdec)
  · obtain ⟨-, hrun, -⟩ := rxProcessReady_iff.mp hready
    exact h ▸ .faulted x hrun

/-- What RX.PROCESS does after bytes that were appended is an effect on the state before them. -/
theorem RxEffect.after_bytes {s t : State} {buf : List Byte} {r : Response}
    (h : RxEffect { s with rxbuf := buf, resp := r } t) : RxEffect s t := by
  cases h with
  | moved buf' outf pos closed ctr warns r' hctr => exact .moved buf' outf pos closed ctr warns r' hctr
  | faulted x hrun => exact .faulted x hrun

theorem rxFrame_effect (bs : List Byte) (s : State) : RxEffect s (rxFrame bs s) := by
  rcases rxFeed_cases bs s with ⟨buf, r, hfeed⟩ | ⟨x, -, hrun, hfeed⟩
  · rcases rxFrame_cases bs s with ⟨-, hframe⟩ | ⟨-, hframe⟩
    · rw [hframe, hfeed]
      exact (rxProcess_effect _).after_bytes
    · rw [hframe, hfeed]
      exact .moved buf s.outf s.rxPos s.rxClosed s.rxCtr s.warnCnt r (.inl rfl)
  · exact rxFrame_of_rxFeed_faulted hfeed rfl ▸ .faulted x hrun

theorem rxAccept_effect (b : Byte) {s : State} (hrun : s.fault = false) : RxEffect s (rxAccept b s) := by
  rcases rxAccept_cases b s with ⟨-, h⟩ | ⟨x, -, h⟩
  · exact h ▸ .moved _ s.outf s.rxPos s.rxClosed s.rxCtr s.warnCnt .done (.inl rfl)
  · exact h ▸ .faulted x hrun

/-- Every step of the RX path is an effect on it alone (R21, R73). -/
theorem exec_rxEffect {i : Instr} {s t : State} (hrx : isRxInstr i = true) (h : exec i s = .next t) :
    RxEffect s t := by
  cases i
  case frameC1 | frameC2 | frameC3 | frameC4 =>
    cases h
    exact rxFrame_effect _ s
  case rxProcess =>
    cases h
    exact rxProcess_effect s
  case rxByte b =>
    rcases execRxByte_cases h with ⟨hready, rfl⟩ | ⟨-, rfl⟩
    · obtain ⟨-, hrun, -⟩ := rxbReady_iff.mp hready
      exact rxAccept_effect b hrun
    · exact .respond s _
  case rxDeliver =>
    rcases execRxDeliver_cases h with ⟨g, -, -, rfl⟩ | ⟨-, rfl⟩
    · exact .moved s.rxbuf none s.rxPos s.rxClosed s.rxCtr s.warnCnt _ (.inl rfl)
    · exact .respond s _
  case rxClose =>
    rcases next_or_notReady h with rfl | rfl
    · exact .moved _ s.outf s.rxPos true s.rxCtr s.warnCnt .done (.inl rfl)
    · exact .respond s _
  case rxAbort =>
    rcases next_or_notReady h with rfl | rfl
    · exact .moved [] none s.rxPos true s.rxCtr s.warnCnt .done (.inl rfl)
    · exact .respond s _
  all_goals cases hrx

/-! ### The steps of the TX path -/

/-- Every step of the TX path is an effect on it alone (R21, R73). -/
theorem exec_txEffect {i : Instr} {s t : State} (htx : isTxInstr i = true) (h : exec i s = .next t) :
    TxEffect i s t := by
  cases i
  case txFrame f =>
    rcases execTxFrame_cases h with ⟨-, rfl⟩ | ⟨-, out, ctr, henc, rfl⟩ | ⟨hready, x, -, rfl⟩
    · exact .respond _ s _
    · obtain ⟨-, hctr⟩ := encryptFrame_ok henc
      exact .moved out s.txPos s.txClosed ctr .done (hctr.imp_right fun hnext => ⟨hnext, f, rfl⟩)
    · obtain ⟨-, hrun, -⟩ := txfReady_iff.mp hready
      exact .faulted x hrun
  case txByte =>
    rcases execTxByte_cases h with ⟨b, rest, -, -, rfl⟩ | ⟨-, rfl⟩
    · exact .moved rest _ s.txClosed s.txCtr _ (.inl rfl)
    · exact .respond _ s _
  case txClose =>
    rcases next_or_notReady h with rfl | rfl
    · exact .moved s.txout s.txPos true s.txCtr .done (.inl rfl)
    · exact .respond _ s _
  case txAbort =>
    rcases next_or_notReady h with rfl | rfl
    · exact .moved [] s.txPos true s.txCtr .done (.inl rfl)
    · exact .respond _ s _
  all_goals cases htx

/-! ### The instructions of neither path -/

theorem HostEffect.respond (i : Instr) (s : State) (r : Response) : HostEffect i s (s.respond r) :=
  .storage s.blkLen s.blkStatus s.pkSlot s.pkVal s.dpb s.dcb r

/-- A command that is not CMD.CONN_RESET, in either of its forms (R264 to R271). -/
theorem command_hostEffect {i : Instr} {code : Byte} (hreset : code ≠ 0x01)
    (hrx : code = 0x02 → IsCommand i .cmdRxCtrReset 0x02) (htx : code = 0x03 → IsCommand i .cmdTxCtrReset 0x03)
    (s : State) : HostEffect i s ((command code s).respond .done) := by
  rcases command_cases code s with h | ⟨hcode, -⟩ | ⟨hcode, hrun, h⟩ | ⟨hcode, hrun, h⟩ | ⟨-, len, st, val, dp, dc, h⟩
  · rw [h]
    exact .respond i s .done
  · exact absurd hcode hreset
  · exact h ▸ .rxCtrReset hrun (hrx hcode)
  · exact h ▸ .txCtrReset hrun (htx hcode)
  · exact h ▸ .storage len st s.pkSlot val dp dc .done

/-- A register write that is not CMD.CONN_RESET (R261). -/
theorem writeNumber_hostEffect {n : BitVec 12} {v : Word} (hreset : isResetInstr (.csrWr n v) = false) (s : State) :
    HostEffect (.csrWr n v) s ((writeNumber s n v).respond .done) := by
  rcases writeNumber_cases s n v with
    h | h | ⟨hn, h⟩ | ⟨hen, ctr, bank, h⟩ | ⟨hen, ctr, bank, h⟩ | ⟨len, slot, val, dp, dc, h⟩
  · rw [h]
    exact .respond _ s .done
  · exact h ▸ .ctrl v
  · obtain rfl := eq_cmdNumber_of_csrOf hn
    have hcode : v.setWidth 8 ≠ 0x01#8 := by
      intro hv
      simp [isResetInstr, hv] at hreset
    exact h ▸ command_hostEffect hcode (fun hv => .inr ⟨v, rfl, hv⟩) (fun hv => .inr ⟨v, rfl, hv⟩) s
  · exact h ▸ .rxUnlocked hen ctr bank
  · exact h ▸ .txUnlocked hen ctr bank
  · exact h ▸ .storage len s.blkStatus slot val dp dc .done

/-- A command's row is the command of its code. -/
theorem exec_command_hostEffect {i : Instr} {code : Byte} {s t : State} (hi : commandOf code = some i)
    (hreset : code ≠ 0x01) (h : exec i s = .next t) : HostEffect i s t := by
  rw [exec_of_commandOf hi] at h
  cases h
  refine command_hostEffect hreset (fun hcode => ?_) (fun hcode => ?_) s
  · subst hcode
    cases hi
    exact .inl rfl
  · subst hcode
    cases hi
    exact .inl rfl

/-- Every instruction that is no reset and no step of a path writes storage, configuration or a counter (R260 to
R271). -/
theorem exec_hostEffect {i : Instr} {s t : State} (hreset : isResetInstr i = false) (hrx : isRxInstr i = false)
    (htx : isTxInstr i = false) (h : exec i s = .next t) : HostEffect i s t := by
  cases i
  case frameC1 | frameC2 | frameC3 | frameC4 | rxByte | rxProcess | rxDeliver | rxClose | rxAbort => cases hrx
  case txFrame | txByte | txClose | txAbort => cases htx
  case reset | cmdConnReset => cases hreset
  case cmdNop => exact exec_command_hostEffect (code := 0x00) rfl (by decide) h
  case cmdRxCtrReset => exact exec_command_hostEffect (code := 0x02) rfl (by decide) h
  case cmdTxCtrReset => exact exec_command_hostEffect (code := 0x03) rfl (by decide) h
  case cmdBlkEnc => exact exec_command_hostEffect (code := 0x10) rfl (by decide) h
  case cmdBlkDec => exact exec_command_hostEffect (code := 0x11) rfl (by decide) h
  case cmdPack18 => exact exec_command_hostEffect (code := 0x12) rfl (by decide) h
  case cmdUnpack18 => exact exec_command_hostEffect (code := 0x13) rfl (by decide) h
  case csrWr n v =>
    cases h
    exact writeNumber_hostEffect hreset s
  case csrRd | modmul | csum | pack18 | unpack18 | blkEnc | blkDec =>
    cases h
    exact .respond _ s _

/-! ### The locks of an enabled path (R371) -/

/-- A frame advances the counter in variant `new` only (R34). -/
theorem eq_or_succ_of_nextCounter {v : Variant} {c c' : Byte} (h : c' = nextCounter v c) :
    c' = c ∨ (c' = c + 1 ∧ v = .new) := by
  cases v
  · exact .inr ⟨h, rfl⟩
  · exact .inl h

/-- While a path is enabled a write of CTRL changes neither VARIANT nor LENIENT (R262). -/
theorem writeCtrl_locked {s : State} (hen : s.rxEn = true ∨ s.txEn = true) (v : Word) :
    (writeCtrl s v).variant = s.variant ∧ (writeCtrl s v).lenient = s.lenient := by
  have hlock : (!s.rxEn && !s.txEn) = false := by
    rcases hen with hen | hen <;> simp [hen]
  simp [hlock]

/-! ### The obligations -/

/-- Settles O45: of the three effects, a step of the path advances its counter, a step of the other path does not touch
it, and the host's writes are behind the locks. -/
theorem enabledPathLocked : Obligations.EnabledPathLocked := by
  intro i s t hreset h
  cases hrx : isRxInstr i with
  | true =>
    cases exec_rxEffect hrx h with
    | moved buf outf pos closed ctr warns r hctr =>
      refine ⟨fun hen => ⟨hen, rfl, rfl, rfl, ?_⟩, fun hen => ⟨hen, rfl, rfl, rfl, .inl rfl⟩⟩
      rcases hctr with hctr | hctr
      · exact .inl hctr
      · exact (eq_or_succ_of_nextCounter hctr).imp_right fun ⟨hsucc, hv⟩ => .inr ⟨hsucc, hv, rfl⟩
    | faulted x hrun => exact ⟨fun hen => ⟨hen, rfl, rfl, rfl, .inl rfl⟩, fun hen => ⟨hen, rfl, rfl, rfl, .inl rfl⟩⟩
  | false =>
    cases htx : isTxInstr i with
    | true =>
      cases exec_txEffect htx h with
      | moved out pos closed ctr r hctr =>
        refine ⟨fun hen => ⟨hen, rfl, rfl, rfl, .inl rfl⟩, fun hen => ⟨hen, rfl, rfl, rfl, ?_⟩⟩
        rcases hctr with hctr | ⟨hctr, hframe⟩
        · exact .inl hctr
        · exact (eq_or_succ_of_nextCounter hctr).imp_right fun ⟨hsucc, hv⟩ => .inr ⟨hsucc, hv, hframe⟩
      | faulted x hrun => exact ⟨fun hen => ⟨hen, rfl, rfl, rfl, .inl rfl⟩, fun hen => ⟨hen, rfl, rfl, rfl, .inl rfl⟩⟩
    | false =>
      cases exec_hostEffect hreset hrx htx h with
      | storage len st slot val dp dc r =>
        exact ⟨fun hen => ⟨hen, rfl, rfl, rfl, .inl rfl⟩, fun hen => ⟨hen, rfl, rfl, rfl, .inl rfl⟩⟩
      | ctrl v =>
        refine ⟨fun hen => ?_, fun hen => ?_⟩
        · obtain ⟨hvariant, hlenient⟩ := writeCtrl_locked (.inl hen) v
          exact ⟨by simp [hen], rfl, hvariant, hlenient, .inl rfl⟩
        · obtain ⟨hvariant, hlenient⟩ := writeCtrl_locked (.inr hen) v
          exact ⟨by simp [hen], rfl, hvariant, hlenient, .inl rfl⟩
      | rxUnlocked hdis ctr bank =>
        exact ⟨fun hen => (nomatch hdis.symm.trans hen), fun hen => ⟨hen, rfl, rfl, rfl, .inl rfl⟩⟩
      | txUnlocked hdis ctr bank =>
        exact ⟨fun hen => ⟨hen, rfl, rfl, rfl, .inl rfl⟩, fun hen => (nomatch hdis.symm.trans hen)⟩
      | rxCtrReset hrun hi =>
        exact ⟨fun hen => ⟨hen, rfl, rfl, rfl, .inr (.inl ⟨rfl, hrun, hi⟩)⟩, fun hen => ⟨hen, rfl, rfl, rfl, .inl rfl⟩⟩
      | txCtrReset hrun hi =>
        exact ⟨fun hen => ⟨hen, rfl, rfl, rfl, .inl rfl⟩, fun hen => ⟨hen, rfl, rfl, rfl, .inr (.inl ⟨rfl, hrun, hi⟩)⟩⟩

/-- Settles O46: an effect of one path names no field of the other; only fault entry empties its buffers. -/
theorem pathsWriteApart : Obligations.PathsWriteApart := by
  refine fun i s t h => ⟨fun hrx => ?rx, fun htx => ?tx⟩
  case rx =>
    cases exec_rxEffect hrx h with
    | moved => exact ⟨rfl, rfl, rfl, rfl, rfl, rfl, rfl, rfl, rfl, fun _ => rfl⟩
    | faulted x hrun =>
      exact ⟨rfl, rfl, rfl, rfl, rfl, rfl, rfl, rfl, rfl, fun hsame => (nomatch hsame.trans hrun)⟩
  case tx =>
    cases exec_txEffect htx h with
    | moved => exact ⟨rfl, rfl, rfl, rfl, rfl, rfl, rfl, rfl, rfl, rfl, fun _ => ⟨rfl, rfl⟩⟩
    | faulted x hrun =>
      exact ⟨rfl, rfl, rfl, rfl, rfl, rfl, rfl, rfl, rfl, rfl, fun hsame => (nomatch hsame.trans hrun)⟩

end Sys2Proof.Machine

/-!
What a step of one path reads (10_state.md R21, R40): in two states that agree on the path, each function of that path
gives the same result.
-/

namespace Sys2Proof.Machine

/-! ### The key files a path reads (R40) -/

theorem encKeys_congr {b b' : KeyBank} (hmod : b.mod = b'.mod) (henc : b.enc = b'.enc) (hxor : b.xork = b'.xork)
    (v : Variant) : encKeys v b = encKeys v b' := by
  rw [encKeys, encKeys, hmod, henc, hxor]

theorem decKeys_congr {b b' : KeyBank} (hmod : b.mod = b'.mod) (hdec : b.dec = b'.dec) (hxor : b.xork = b'.xork)
    (v : Variant) : decKeys v b = decKeys v b' := by
  rw [decKeys, decKeys, hmod, hdec, hxor]

/-- BLK.ENC reads of a bank what `encKeys` does (R153), and so does the enciphering of a frame. -/
theorem blkEnc_congr {v : Variant} {b b' : KeyBank} (h : encKeys v b = encKeys v b') : blkEnc v b = blkEnc v b' := by
  funext p u
  simp only [blkEnc, h]

theorem encBlocks_congr {v : Variant} {b b' : KeyBank} (h : encKeys v b = encKeys v b') :
    encBlocks v b = encBlocks v b' := by
  funext cs
  induction cs with
  | nil => rfl
  | cons c cs ih => simp only [encBlocks, blkEnc_congr h, ih]

theorem encryptFrame_congr {v : Variant} {b b' : KeyBank} (h : encKeys v b = encKeys v b') :
    encryptFrame v b = encryptFrame v b' := by
  funext ctr f
  simp only [encryptFrame, encryptContent, h, encBlocks_congr h]

/-- BLK.DEC reads of a bank what `decKeys` does (R154), and so does the deciphering of a frame. -/
theorem blkDec_congr {v : Variant} {b b' : KeyBank} (h : decKeys v b = decKeys v b') : blkDec v b = blkDec v b' := by
  funext c lenient
  simp only [blkDec, decPlain, h]

theorem decBlocks_congr {v : Variant} {b b' : KeyBank} (h : decKeys v b = decKeys v b') (ctr : Byte) (lenient : Bool) :
    decBlocks v b ctr lenient = decBlocks v b' ctr lenient := by
  funext k cs
  induction cs generalizing k with
  | nil => rfl
  | cons c cs ih => simp only [decBlocks, blkDec_congr h, ih]

theorem decryptFrame_congr {v : Variant} {b b' : KeyBank} (h : decKeys v b = decKeys v b') :
    decryptFrame v b = decryptFrame v b' := by
  funext ctr lenient f
  simp only [decryptFrame, decryptContent, h, decBlocks_congr h]

/-! ### Two states that agree on a path -/

/-- A step from a state like `s`, taken in two states that agree on a path, ends in `t` and `t'`, which agree on it too,
with the same answer and, where the step halts, the same fault information. -/
abbrev SameStep (Agree : State → State → Prop) (s t t' : State) : Prop :=
  Agree t t' ∧ t.resp = t'.resp ∧ (s.fault = false → t.fault = true → SameFaultInfo t t')

theorem SameStep.of_running {Agree : State → State → Prop} {s t t' : State} (hagree : Agree t t')
    (hresp : t.resp = t'.resp) (hfault : t.fault = s.fault) : SameStep Agree s t t' :=
  ⟨hagree, hresp, fun hrun hhalt => nomatch (hfault.trans hrun).symm.trans hhalt⟩

/-- A step that only answers; neither path reads the answer of the step before. -/
theorem SameStep.respond {Agree : State → State → Prop} {s s' : State} {r : Response}
    (h : Agree (s.respond r) (s'.respond r)) : SameStep Agree s (s.respond r) (s'.respond r) :=
  .of_running h rfl rfl

/-- A step behind an enabling condition that the two states agree on. -/
theorem SameStep.guarded {Agree : State → State → Prop} {s s' t t' u u' : State} {c c' : Bool} (hc : c' = c)
    (hwait : Agree (s.respond .notReady) (s'.respond .notReady))
    (h : (if c = true then .next u else notReady s : Result) = .next t)
    (h' : (if c' = true then .next u' else notReady s' : Result) = .next t') (hu : SameStep Agree s u u') :
    SameStep Agree s t t' := by
  subst hc
  cases c'
  · cases h
    cases h'
    exact .respond hwait
  · cases h
    cases h'
    exact hu

/-! ### The TX path -/

theorem faulted_tx_same {s s' : State} (h : TxAgree s s') (x : Raised) :
    SameStep TxAgree s (s.faulted .tx x) (s'.faulted .tx x) := by
  obtain ⟨hv, hen, -, hclosed, -, hctr, hpos, hmod, henc, hxor⟩ := h
  exact ⟨⟨hv, hen, rfl, hclosed, rfl, hctr, hpos, hmod, henc, hxor⟩, rfl, fun _ _ => ⟨rfl, rfl, rfl, hpos⟩⟩

/-- TX.FRAME (R212). -/
theorem exec_txFrame_same {f : List Byte} {s s' t t' : State} (hagree : TxAgree s s')
    (h : exec (.txFrame f) s = .next t) (h' : exec (.txFrame f) s' = .next t') : SameStep TxAgree s t t' := by
  have ⟨hv, hen, hfault, hclosed, hout, hctr, hpos, hmod, henc, hxor⟩ := hagree
  have hready : s.txfReady = s'.txfReady := by simp only [State.txfReady, hen, hfault, hclosed, hout]
  have hframe : encryptFrame s.variant s.txk s.txCtr f = encryptFrame s'.variant s'.txk s'.txCtr f := by
    rw [hv, hctr, encryptFrame_congr (encKeys_congr hmod henc hxor _)]
  rcases execTxFrame_cases h with ⟨hr, rfl⟩ | ⟨hr, out, ctr, he, rfl⟩ | ⟨hr, x, he, rfl⟩
  · cases (notReady_of_false (hready.symm.trans hr) _ s').symm.trans h'
    exact .respond hagree
  · have hwait' : TxWaiting s' := txfReady_iff.mp (hready.symm.trans hr)
    cases (exec_txFrame_of_encryptFrame_ok hwait' (hframe.symm.trans he)).symm.trans h'
    exact .of_running ⟨hv, hen, hfault, hclosed, rfl, rfl, hpos, hmod, henc, hxor⟩ rfl rfl
  · cases (exec_txFrame_of_encryptFrame_error (hready.symm.trans hr) (hframe.symm.trans he)).symm.trans h'
    exact faulted_tx_same hagree x

/-- TX.BYTE (R216). -/
theorem exec_txByte_same {s s' t t' : State} (hagree : TxAgree s s') (h : exec .txByte s = .next t)
    (h' : exec .txByte s' = .next t') : SameStep TxAgree s t t' := by
  have ⟨hv, hen, hfault, hclosed, hout, hctr, hpos, hmod, henc, hxor⟩ := hagree
  have hvalid : s.txbValid = s'.txbValid := by simp only [State.txbValid, hfault, hout]
  rcases execTxByte_cases h with ⟨b, rest, hrun, hb, rfl⟩ | ⟨hwait, rfl⟩
  · cases (exec_txByte_of_txout (hfault.symm.trans hrun) (hout.symm.trans hb)).symm.trans h'
    exact .of_running ⟨hv, hen, hfault, hclosed, rfl, hctr, congrArg (· + 1) hpos, hmod, henc, hxor⟩ rfl rfl
  · cases (exec_txByte_of_not_txbValid (hvalid.symm.trans hwait)).symm.trans h'
    exact .respond hagree

/-- Every step of the TX path reads that path only (R21). -/
theorem exec_tx_same {i : Instr} {s s' t t' : State} (htx : isTxInstr i = true) (hagree : TxAgree s s')
    (h : exec i s = .next t) (h' : exec i s' = .next t') : SameStep TxAgree s t t' := by
  have ⟨hv, hen, hfault, hclosed, hout, hctr, hpos, hmod, henc, hxor⟩ := hagree
  have hopen : s'.txOpen = s.txOpen := by simp only [State.txOpen, hen, hfault, hclosed]
  cases i
  case txFrame f => exact exec_txFrame_same hagree h h'
  case txByte => exact exec_txByte_same hagree h h'
  case txClose =>
    exact .guarded hopen hagree h h'
      (.of_running ⟨hv, hen, hfault, rfl, hout, hctr, hpos, hmod, henc, hxor⟩ rfl rfl)
  case txAbort =>
    exact .guarded hopen hagree h h' (.of_running ⟨hv, hen, hfault, rfl, rfl, hctr, hpos, hmod, henc, hxor⟩ rfl rfl)
  all_goals cases htx

/-! ### The RX path -/

theorem faulted_rx_same {s s' : State} (h : RxAgree s s') (x : Raised) :
    SameStep RxAgree s (s.faulted .rx x) (s'.faulted .rx x) := by
  obtain ⟨hv, hlen, hen, -, hclosed, -, -, hctr, hpos, hwarn, hmod, hdec, hxor⟩ := h
  exact ⟨⟨hv, hlen, hen, rfl, hclosed, rfl, rfl, hctr, hpos, hwarn, hmod, hdec, hxor⟩, rfl,
    fun _ _ => ⟨rfl, rfl, rfl, hpos⟩⟩

theorem rxState_congr {s s' : State} (hagree : RxAgree s s') : s'.rxState = s.rxState := by
  obtain ⟨-, -, -, -, -, hbuf, -⟩ := hagree
  rw [State.rxState, State.rxState, hbuf]

theorem rxbReady_congr {s s' : State} (hagree : RxAgree s s') : s'.rxbReady = s.rxbReady := by
  have hstate := rxState_congr hagree
  obtain ⟨-, -, hen, hfault, hclosed, -⟩ := hagree
  simp only [State.rxbReady, hen, hfault, hclosed, hstate]

/-- RX.BYTE, enabled (R181). -/
theorem rxAccept_same {s s' : State} (hagree : RxAgree s s') (b : Byte) :
    SameStep RxAgree s (rxAccept b s) (rxAccept b s') := by
  have ⟨hv, hlen, hen, hfault, hclosed, hbuf, houtf, hctr, hpos, hwarn, hmod, hdec, hxor⟩ := hagree
  cases haccept : acceptByte Config.rxbufCap s.rxbuf b with
  | ok buf =>
    rw [rxAccept_of_acceptByte_ok haccept, rxAccept_of_acceptByte_ok (hbuf ▸ haccept)]
    exact .of_running ⟨hv, hlen, hen, hfault, hclosed, rfl, houtf, hctr, hpos, hwarn, hmod, hdec, hxor⟩ rfl rfl
  | error x =>
    have hraise (u : State) (hu : acceptByte Config.rxbufCap u.rxbuf b = .error x) :
        rxAccept b u = u.faulted .rx x := by
      rw [rxAccept, hu]
    rw [hraise s haccept, hraise s' (hbuf ▸ haccept)]
    exact faulted_rx_same hagree x

/-- Bytes that arrive together (R121). -/
theorem rxFeed_same (bs : List Byte) {s s' : State} (hagree : RxAgree s s') :
    SameStep RxAgree s (rxFeed bs s) (rxFeed bs s') := by
  induction bs generalizing s s' with
  | nil => exact .respond hagree
  | cons b bs ih =>
    have hready := rxbReady_congr hagree
    cases hr : s.rxbReady with
    | false =>
      rw [rxFeed_cons_of_not_rxbReady hr, rxFeed_cons_of_not_rxbReady (hready.trans hr)]
      exact .respond hagree
    | true =>
      have hbyte := rxAccept_same hagree b
      have ⟨hnext, _, _⟩ := hbyte
      have ⟨_, _, _, hfault, _⟩ := hnext
      rw [rxFeed, rxFeed, if_pos hr, if_pos (hready.trans hr)]
      simp only [← hfault]
      cases hhalt : (rxAccept b s).fault with
      | true => exact hbyte
      | false =>
        obtain ⟨_, hrun, _⟩ := rxbReady_iff.mp hr
        obtain ⟨hagree', hresp, hinfo⟩ := ih hnext
        exact ⟨hagree', hresp, fun _ => hinfo hhalt⟩

/-- RX.PROCESS (R231). -/
theorem rxProcess_same {s s' : State} (hagree : RxAgree s s') : SameStep RxAgree s (rxProcess s) (rxProcess s') := by
  have hstate := rxState_congr hagree
  have ⟨hv, hlen, hen, hfault, hclosed, hbuf, houtf, hctr, hpos, hwarn, hmod, hdec, hxor⟩ := hagree
  have hready : s'.rxProcessReady = s.rxProcessReady := by
    simp only [State.rxProcessReady, hen, hfault, houtf, hstate]
  have hframe : decryptFrame s'.variant s'.rxk s'.rxCtr s'.lenient s'.rxbuf
      = decryptFrame s.variant s.rxk s.rxCtr s.lenient s.rxbuf := by
    rw [hv, hlen, hctr, hbuf, decryptFrame_congr (decKeys_congr hmod hdec hxor _)]
  rw [rxProcess, rxProcess, hready, hframe]
  split
  · split
    · next g ctr warns he =>
      rw [hbuf, hpos, hwarn]
      exact .of_running ⟨hv, hlen, hen, hfault, hclosed, rfl, rfl, rfl, rfl, rfl, hmod, hdec, hxor⟩ rfl rfl
    · exact faulted_rx_same hagree _
  · exact .respond hagree

/-- A wire frame that goes on to RX.PROCESS did not halt. -/
theorem rxFeed_fault_of_done {bs : List Byte} {s : State} (h : (rxFeed bs s).resp = .done) :
    (rxFeed bs s).fault = s.fault := by
  rcases rxFeed_cases bs s with ⟨buf, r, hfeed⟩ | ⟨x, -, -, hfeed⟩
  · rw [hfeed]
  · rw [hfeed] at h
    cases h

/-- A wire frame (R121). -/
theorem rxFrame_same (bs : List Byte) {s s' : State} (hagree : RxAgree s s') :
    SameStep RxAgree s (rxFrame bs s) (rxFrame bs s') := by
  have hfeed := rxFeed_same bs hagree
  have ⟨hnext, hresp, _⟩ := hfeed
  rcases rxFrame_cases bs s with ⟨hdone, hframe⟩ | ⟨hnot, hframe⟩
  · rcases rxFrame_cases bs s' with ⟨-, hframe'⟩ | ⟨hnot', -⟩
    · rw [hframe, hframe']
      obtain ⟨hagree', hresp', hinfo⟩ := rxProcess_same hnext
      exact ⟨hagree', hresp', fun hrun => hinfo ((rxFeed_fault_of_done hdone).trans hrun)⟩
    · exact absurd (hresp.symm.trans hdone) hnot'
  · rcases rxFrame_cases bs s' with ⟨hdone', -⟩ | ⟨-, hframe'⟩
    · exact absurd (hresp.trans hdone') hnot
    · rw [hframe, hframe']
      exact hfeed

/-- RX.DELIVER (R238). -/
theorem exec_rxDeliver_same {s s' t t' : State} (hagree : RxAgree s s') (h : exec .rxDeliver s = .next t)
    (h' : exec .rxDeliver s' = .next t') : SameStep RxAgree s t t' := by
  have ⟨hv, hlen, hen, hfault, hclosed, hbuf, houtf, hctr, hpos, hwarn, hmod, hdec, hxor⟩ := hagree
  have hvalid : s.rxfValid = s'.rxfValid := by simp only [State.rxfValid, hfault, houtf]
  rcases execRxDeliver_cases h with ⟨g, hrun, hg, rfl⟩ | ⟨hwait, rfl⟩
  · cases (exec_rxDeliver_of_outf (hfault.symm.trans hrun) (houtf.symm.trans hg)).symm.trans h'
    exact .of_running ⟨hv, hlen, hen, hfault, hclosed, hbuf, rfl, hctr, hpos, hwarn, hmod, hdec, hxor⟩ rfl rfl
  · cases (exec_rxDeliver_of_not_rxfValid (hvalid.symm.trans hwait)).symm.trans h'
    exact .respond hagree

/-- Every step of the RX path reads that path only (R21). -/
theorem exec_rx_same {i : Instr} {s s' t t' : State} (hrx : isRxInstr i = true) (hagree : RxAgree s s')
    (h : exec i s = .next t) (h' : exec i s' = .next t') : SameStep RxAgree s t t' := by
  have hstate := rxState_congr hagree
  have ⟨hv, hlen, hen, hfault, hclosed, hbuf, houtf, hctr, hpos, hwarn, hmod, hdec, hxor⟩ := hagree
  have hopen : s'.rxOpen = s.rxOpen := by simp only [State.rxOpen, hen, hfault, hclosed]
  have hkept : (if s.rxState = .emit then s.rxbuf else []) = if s'.rxState = .emit then s'.rxbuf else [] := by
    rw [hstate, hbuf]
  cases i
  case frameC1 | frameC2 | frameC3 | frameC4 =>
    cases h
    cases h'
    exact rxFrame_same _ hagree
  case rxProcess =>
    cases h
    cases h'
    exact rxProcess_same hagree
  case rxByte b => exact .guarded (rxbReady_congr hagree) hagree h h' (rxAccept_same hagree b)
  case rxDeliver => exact exec_rxDeliver_same hagree h h'
  case rxClose =>
    exact .guarded hopen hagree h h' (.of_running
      ⟨hv, hlen, hen, hfault, rfl, hkept, houtf, hctr, hpos, hwarn, hmod, hdec, hxor⟩ rfl rfl)
  case rxAbort =>
    exact .guarded hopen hagree h h' (.of_running
      ⟨hv, hlen, hen, hfault, rfl, rfl, rfl, hctr, hpos, hwarn, hmod, hdec, hxor⟩ rfl rfl)
  all_goals cases hrx

/-! ### The obligation -/

/-- Settles O47: each step of a path is a function of what the two states agree on. -/
theorem pathsReadApart : Obligations.PathsReadApart :=
  fun _ _ _ _ _ h h' => ⟨fun htx hagree => exec_tx_same htx hagree h h', fun hrx hagree => exec_rx_same hrx hagree h h'⟩

end Sys2Proof.Machine

/-!
Frames carried from one core to another (44_stream_decryptor.md R241): what links the two, and that carrying one frame
keeps the link.
-/

namespace Sys2Proof.Machine

/-! ### Carrying one frame -/

theorem runAll_of_runAnswers {is : List Instr} {s u : State} {rs : List Response}
    (h : runAnswers is s = some (rs, u)) : runAll is s = .next u := by
  induction is generalizing s rs with
  | nil =>
    cases h
    rfl
  | cons i is ih =>
    obtain ⟨t, ht⟩ := exec_next i s
    cases hrest : runAnswers is t with
    | none => simp [runAnswers, ht, hrest] at h
    | some r =>
      simp only [runAnswers, ht, hrest] at h
      cases h
      exact (runAll_cons ht is).trans (ih hrest)

/-- TX.FRAME without a fault, and TXOUT drained: the bytes are a whole frame, and the path waits again with the same
configuration (R212, R216). -/
theorem send_and_drain {f : List Byte} {a a1 : State} (hwait : TxWaiting a) (h : exec (.txFrame f) a = .next a1)
    (hrun : a1.fault = false) :
    wholeFrame a1.txout = true ∧ ∃ a2, runAll (List.replicate a1.txout.length .txByte) a1 = .next a2 ∧
      TxWaiting a2 ∧ a2.variant = a.variant ∧ a2.txk = a.txk ∧ a2.txCtr = a1.txCtr := by
  have ⟨hen, _, hclosed, _⟩ := hwait
  obtain ⟨a2, hdrain, hsame⟩ := runAnswers_txByte hrun rfl
  have field {α : Type} (g : State → α) (hg : ∀ s : State, g (s.respond .done) = g s) :
      g a2 = g { a1 with txout := [], txPos := a1.txPos + BitVec.ofNat 64 a1.txout.length } := by
    rw [← hg a2, hsame, hg]
  have hen2 : a2.txEn = a1.txEn := field State.txEn fun _ => rfl
  have hrun2 : a2.fault = a1.fault := field State.fault fun _ => rfl
  have hclosed2 : a2.txClosed = a1.txClosed := field State.txClosed fun _ => rfl
  have hvariant2 : a2.variant = a1.variant := field State.variant fun _ => rfl
  have hbank2 : a2.txk = a1.txk := field State.txk fun _ => rfl
  have hout2 : a2.txout = [] := field State.txout fun _ => rfl
  have hctr2 : a2.txCtr = a1.txCtr := field State.txCtr fun _ => rfl
  rcases execTxFrame_cases h with ⟨hnot, -⟩ | ⟨-, out, ctr, henc, rfl⟩ | ⟨-, x, -, rfl⟩
  · cases hnot.symm.trans (txfReady_iff.mpr hwait)
  · obtain ⟨hwhole, -⟩ := encryptFrame_ok henc
    exact ⟨hwhole, a2, runAll_of_runAnswers hdrain, ⟨hen2.trans hen, hrun2.trans hrun, hclosed2.trans hclosed, hout2⟩,
      hvariant2, hbank2, hctr2⟩
  · cases hrun

/-- A frame without warnings leaves WARN_CNT as it is. -/
theorem delivered_warnCnt_zero (s : State) (g : List Byte) (ctr : Byte) (len : Nat) :
    (s.delivered g ctr len 0).warnCnt = s.warnCnt := by
  refine BitVec.eq_of_toNat_eq ?_
  have hcnt : (s.delivered g ctr len 0).warnCnt = addWarnings s.warnCnt 0 := rfl
  rw [hcnt, toNat_addWarnings]
  omega

/-- The receiver after a frame `f` that came as the bytes `wire` has been delivered. -/
def State.received (b : State) (wire f : List Byte) (ctr : Byte) : State :=
  { (b.holding wire).delivered f ctr wire.length 0 with outf := none, resp := .bytes f }

/-- Bytes of a frame arriving at a waiting path, processed and delivered (R231, R238). -/
theorem runAll_receive {b : State} (hwait : RxWaiting b) {wire f : List Byte} {ctr : Byte}
    (hwhole : wholeFrame wire = true)
    (hproc : exec .rxProcess (b.holding wire) = .next ((b.holding wire).delivered f ctr wire.length 0)) :
    runAll (rxBytes wire ++ [.rxProcess, .rxDeliver]) b = .next (b.received wire f ctr) := by
  have ⟨_, hrun, _, _⟩ := hwait
  have hstate : rxProcess (b.holding wire) = (b.holding wire).delivered f ctr wire.length 0 :=
    Host.Outcome.next.inj hproc
  rw [runAll_wholeFrame hwait hwhole, hstate]
  exact runAll_cons (exec_rxDeliver_of_outf (s := (b.holding wire).delivered f ctr wire.length 0) hrun rfl) []

/-! ### Two linked cores (R241) -/

/-- A can send, B can receive, A.TXK pairs with B.RXK, and the counters are equal. -/
structure Linked (a b : State) : Prop where
  sends : TxWaiting a
  receives : RxWaiting b
  outf_empty : b.outf = none
  variant_eq : b.variant = a.variant
  pair : MatchingPair a.variant a.txk b.rxk
  counter_eq : b.rxCtr = a.txCtr

/-- A sendable frame is carried from A to B, which stay linked; B counts no warning. -/
theorem carryFrame_of_linked {a b : State} (hlink : Linked a b) {f : List Byte} (hsend : sendable a.variant f = true) :
    ∃ a' b', carryFrame f a b = some (.bytes f, a', b') ∧ Linked a' b' ∧ a'.variant = a.variant ∧
      b'.warnCnt = b.warnCnt := by
  obtain ⟨htx, hrx, houtf, hv, hpair, hctr⟩ := hlink
  obtain ⟨a1, hsent, hrun, -⟩ := frameRoundTrip a b f htx hsend hv hpair hctr
  obtain ⟨a1', hsent', -, hround⟩ := frameRoundTrip a (b.holding a1.txout) f htx hsend hv hpair hctr
  cases hsent.symm.trans hsent'
  obtain ⟨hwhole, a2, hdrain, htx2, hvariant, hbank, hcounter⟩ := send_and_drain htx hsent hrun
  have ⟨hrxEn, hrxRun, hrxClosed, _⟩ := hrx
  have hbytes := runAll_receive hrx hwhole (hround ⟨hrxEn, hrxRun, houtf, rfl⟩)
  refine ⟨a2, b.received a1.txout f a1.txCtr, ?carried, ?linked, hvariant,
    delivered_warnCnt_zero b f a1.txCtr a1.txout.length⟩
  case carried =>
    simp only [carryFrame, hsent, hdrain, hbytes]
    rfl
  case linked =>
    exact {
      sends := htx2
      receives := ⟨hrxEn, hrxRun, hrxClosed, rfl⟩
      outf_empty := rfl
      variant_eq := hv.trans hvariant.symm
      pair := by
        rw [hvariant, hbank]
        exact hpair
      counter_eq := hcounter.symm }

/-- A sequence of sendable frames is carried frame by frame. -/
theorem carryFrames_of_linked {a b : State} (hlink : Linked a b) {fs : List (List Byte)}
    (hsend : ∀ f ∈ fs, sendable a.variant f = true) :
    ∃ a' b', carryFrames fs a b = some (fs.map Response.bytes, a', b') ∧ Linked a' b' ∧ b'.warnCnt = b.warnCnt := by
  induction fs generalizing a b with
  | nil => exact ⟨a, b, rfl, hlink, rfl⟩
  | cons f fs ih =>
    obtain ⟨hf, hrest⟩ := List.forall_mem_cons.mp hsend
    obtain ⟨a2, b2, hcarry, hlink2, hv, hwarn2⟩ := carryFrame_of_linked hlink hf
    obtain ⟨a3, b3, hcarries, hlink3, hwarn3⟩ := ih hlink2 (hv ▸ hrest)
    refine ⟨a3, b3, ?_, hlink3, hwarn3.trans hwarn2⟩
    simp only [carryFrames, hcarry, hcarries, List.map_cons]

/-- Settles O60: the link is an invariant of carrying a frame, and each frame makes the round trip of O59. -/
theorem sequenceRoundTrip : Obligations.SequenceRoundTrip := by
  intro a b fs htx hrx houtf hv hpair hctr hsend
  obtain ⟨a', b', hcarry, hlink, hwarn⟩ := carryFrames_of_linked ⟨htx, hrx, houtf, hv, hpair, hctr⟩ hsend
  exact ⟨a', b', hcarry, hlink.sends, hlink.receives, hlink.outf_empty, hwarn, hlink.counter_eq⟩

end Sys2Proof.Machine

/-!
The invariant (10_state.md R23 to R28, R33, R38, 20_memory.md R61, 42_framer.md R183, R191, 60_exceptions.md R330):
every step keeps it.
-/

namespace Sys2Proof.Machine

/-! ### What RXBUF may hold -/

theorem assembling_iff {buf : List Byte} :
    assembling buf = true ↔ buf = [] ∨ (isRecognized (buf.getD 0 0) = true ∧
      (buf.length < hdrLen (buf.getD 0 0) ∨ (hdrLen (buf.getD 0 0) ≤ totalLen buf ∧ buf.length ≤ totalLen buf))) := by
  simp [assembling]

/-- A complete buffer is a whole frame (R183). -/
theorem wholeFrame_of_assembling {buf : List Byte} (h : assembling buf = true) (hemit : rxStateOf buf = .emit) :
    wholeFrame buf = true := by
  obtain ⟨hhdr, hcomplete⟩ := rxStateOf_eq_emit_iff.mp hemit
  rcases assembling_iff.mp h with rfl | ⟨hrec, hlen⟩
  · cases hemit
  · exact wholeFrame_iff.mpr ⟨hrec, hhdr, by omega⟩

/-- The byte that completes a header passed the check of the declared length (R185). -/
theorem hdrLen_le_of_acceptByte_ok {cap : Nat} {buf buf' : List Byte} {b : Byte}
    (h : acceptByte cap buf b = .ok buf') (hend : buf.length + 1 = hdrLen (buf.getD 0 0)) :
    hdrLen (buf.getD 0 0) ≤ totalLen (buf ++ [b]) := by
  rw [acceptByte_at_header_end hend] at h
  split at h
  · cases h
  · next hcovers => exact not_lt.mp hcovers

/-- An accepted byte keeps the buffer what RXBUF may hold (R181 to R186). -/
theorem assembling_append {cap : Nat} {buf : List Byte} {b : Byte} (h : assembling buf = true)
    (hopen : rxStateOf buf ≠ .emit) (haccept : acceptByte cap buf b = .ok (buf ++ [b])) :
    assembling (buf ++ [b]) = true := by
  have hlen : (buf ++ [b]).length = buf.length + 1 := List.length_append
  rw [assembling_iff]
  refine .inr ?_
  rcases assembling_iff.mp h with rfl | ⟨hrec, hplace⟩
  · have hrecb : isRecognized b = true := by
      cases hb : isRecognized b
      · cases (acceptByte_nil_of_unrecognized hb cap).symm.trans haccept
      · rfl
    exact ⟨hrecb, .inl (hdrLen_bounds b).1⟩
  · have hpos : 0 < buf.length := by
      cases buf with
      | nil => cases hrec
      | cons t rest => exact Nat.succ_pos _
    rw [getD_zero_append hpos, hlen]
    refine ⟨hrec, ?_⟩
    by_cases hhdr : hdrLen (buf.getD 0 0) ≤ buf.length
    · have htotal := totalLen_append hhdr [b]
      have hmore : ¬totalLen buf ≤ buf.length := fun hle => hopen (rxStateOf_eq_emit_iff.mpr ⟨hhdr, hle⟩)
      omega
    · by_cases hend : buf.length + 1 = hdrLen (buf.getD 0 0)
      · have hcovers := hdrLen_le_of_acceptByte_ok haccept hend
        omega
      · omega

/-! ### Fault entry and the resets -/

/-- The reserved bits of BLK_STATUS are 0 (R38). -/
abbrev BlkStatusClean (s : State) : Prop :=
  s.blkStatus.extractLsb' 9 7 = 0

theorem clean_of_blkStatus_zero {s : State} (h : s.blkStatus = 0) : BlkStatusClean s := by
  rw [BlkStatusClean, h]
  exact BitVec.extractLsb'_zero

theorem errCodeWord_reserved (dir : Dir) (c : Cause) : (errCodeWord dir c).extractLsb' 9 23 = 0 := by
  cases dir <;> cases c <;> decide

/-- Fault entry on a core with an enabled path (R330). -/
theorem Inv.faulted {s : State} (h : Inv s) (hen : s.rxEn = true ∨ s.txEn = true) (dir : Dir) (x : Raised) :
    Inv (s.faulted dir x) := by
  obtain ⟨-, -, ⟨hrxIdle, htxIdle⟩, ⟨-, hwarn, hblk⟩⟩ := h
  obtain ⟨hlo, hhi⟩ : 1 ≤ x.cause.code.toNat ∧ x.cause.code.toNat ≤ 6 := by cases x.cause <;> decide
  refine ⟨⟨rfl, rfl, Nat.zero_le _⟩, ⟨fun _ => ?_, fun hrun => nomatch hrun⟩, ⟨fun hdis => ?_, fun hdis => ?_⟩,
    ⟨fun _ => .inl rfl, hwarn, hblk⟩⟩
  · rw [faulted_errCode, errCodeWord_code]
    exact ⟨rfl, rfl, rfl, errCodeWord_reserved dir x.cause, hlo, hhi, hen⟩
  · obtain ⟨-, -, hclosed, hpos, hcnt⟩ := hrxIdle hdis
    exact ⟨rfl, rfl, hclosed, hpos, hcnt⟩
  · obtain ⟨-, hclosed, hpos⟩ := htxIdle hdis
    exact ⟨rfl, hclosed, hpos⟩

theorem Inv.connReset {s : State} (h : Inv s) : Inv s.connReset := by
  obtain ⟨-, -, -, ⟨-, -, hblk⟩⟩ := h
  exact ⟨⟨rfl, rfl, Nat.zero_le _⟩, ⟨fun hhalt => (nomatch hhalt), fun _ => ⟨rfl, rfl, rfl, rfl⟩⟩,
    ⟨fun _ => ⟨rfl, rfl, rfl, rfl, rfl⟩, fun _ => ⟨rfl, rfl, rfl⟩⟩,
    ⟨fun _ => .inl rfl, fun hwarn => absurd rfl hwarn, hblk⟩⟩

theorem inv_hardReset (s : State) : Inv s.hardReset :=
  ⟨⟨rfl, rfl, Nat.zero_le _⟩, ⟨fun hhalt => (nomatch hhalt), fun _ => ⟨rfl, rfl, rfl, rfl⟩⟩,
    ⟨fun _ => ⟨rfl, rfl, rfl, rfl, rfl⟩, fun _ => ⟨rfl, rfl, rfl⟩⟩,
    ⟨fun _ => .inl rfl, fun hwarn => absurd rfl hwarn, clean_of_blkStatus_zero rfl⟩⟩

/-- A step behind an enabling condition: where it waits it changes nothing the invariant reads. -/
theorem Inv.guarded {s t u : State} {c : Bool} (h : Inv s)
    (hexec : (if c = true then .next u else notReady s : Result) = .next t) (hu : c = true → Inv u) : Inv t := by
  cases c
  · cases hexec
    exact h
  · cases hexec
    exact hu rfl

/-! ### The RX path -/

/-- On a running core with the RX path enabled, new buffers need only be what RXBUF and OUTF may hold. -/
theorem Inv.moveRx {s : State} (h : Inv s) (hrun : s.fault = false) (hen : s.rxEn = true) {buf : List Byte}
    {outf : Option (List Byte)} {closed : Bool} {warns : Word} (hbuf : assembling buf = true)
    (houtf : outf.all wholeFrame = true) (hclosed : closed = true → buf = [] ∨ rxStateOf buf = .emit)
    (hwarns : warns ≠ 0 → s.lenient = true) (pos : Dword) (ctr : Byte) (r : Response) :
    Inv { s with
      rxbuf := buf, outf := outf, rxPos := pos, rxClosed := closed, rxCtr := ctr, warnCnt := warns, resp := r } := by
  obtain ⟨⟨-, -, hout⟩, ⟨-, hrunning⟩, ⟨-, htxIdle⟩, ⟨-, -, hblk⟩⟩ := h
  exact ⟨⟨hbuf, houtf, hout⟩, ⟨fun hhalt => (nomatch hrun.symm.trans hhalt), hrunning⟩,
    ⟨fun hdis => (nomatch hen.symm.trans hdis), htxIdle⟩, ⟨hclosed, hwarns, hblk⟩⟩

theorem rxAccept_inv {s : State} (h : Inv s) (hready : s.rxbReady = true) (b : Byte) : Inv (rxAccept b s) := by
  obtain ⟨hen, hrun, hclosed, hstate⟩ := rxbReady_iff.mp hready
  have ⟨⟨hbuf, houtf, _⟩, _, _, ⟨_, hwarn, _⟩⟩ := h
  rcases rxAccept_cases b s with ⟨haccept, hs⟩ | ⟨x, -, hs⟩
  · rw [hs]
    exact h.moveRx hrun hen (assembling_append hbuf hstate haccept) houtf
      (fun hc => nomatch hclosed.symm.trans hc) hwarn s.rxPos s.rxCtr .done
  · exact hs ▸ h.faulted (.inl hen) .rx x

theorem rxFeed_inv (bs : List Byte) {s : State} (h : Inv s) : Inv (rxFeed bs s) := by
  induction bs generalizing s with
  | nil => exact h
  | cons b bs ih =>
    cases hready : s.rxbReady with
    | false => exact rxFeed_cons_of_not_rxbReady hready b bs ▸ h
    | true =>
      have hnext := rxAccept_inv h hready b
      rw [rxFeed, if_pos hready]
      cases hhalt : (rxAccept b s).fault with
      | true => simpa only [hhalt, if_true] using hnext
      | false => simpa only [hhalt, Bool.false_eq_true, if_false] using ih hnext

theorem rxProcess_inv {s : State} (h : Inv s) : Inv (rxProcess s) := by
  have ⟨⟨hbuf, _, _⟩, _, _, ⟨_, hwarn, _⟩⟩ := h
  rcases rxProcess_cases s with ⟨-, hs⟩ | ⟨hready, g, ctr, warns, hdec, hs⟩ | ⟨hready, x, -, hs⟩
  · exact hs ▸ h
  · obtain ⟨hen, hrun, hemit, -⟩ := rxProcessReady_iff.mp hready
    have hframe := wholeFrame_of_decryptFrame_ok (wholeFrame_of_assembling hbuf hemit) hdec
    have hcount : addWarnings s.warnCnt warns ≠ 0 → s.lenient = true := by
      intro hne
      by_contra hstrict
      rw [Bool.not_eq_true] at hstrict
      rw [hstrict] at hdec
      have hzero : s.warnCnt = 0 := by
        by_contra hcnt
        cases hstrict.symm.trans (hwarn hcnt)
      rw [no_warning_of_decryptFrame_strict hdec, hzero] at hne
      exact hne rfl
    rw [hs]
    exact h.moveRx (outf := some g) hrun hen rfl hframe (fun _ => .inl rfl) hcount _ ctr _
  · obtain ⟨hen, -⟩ := rxProcessReady_iff.mp hready
    exact hs ▸ h.faulted (.inl hen) .rx x

theorem rxFrame_inv (bs : List Byte) {s : State} (h : Inv s) : Inv (rxFrame bs s) := by
  have hfeed := rxFeed_inv bs h
  rcases rxFrame_cases bs s with ⟨-, hframe⟩ | ⟨-, hframe⟩
  · exact hframe ▸ rxProcess_inv hfeed
  · exact hframe ▸ hfeed

/-- The steps of the RX path. -/
theorem exec_rx_inv {i : Instr} {s t : State} (hrx : isRxInstr i = true) (h : Inv s) (hexec : exec i s = .next t) :
    Inv t := by
  have ⟨⟨hbuf, houtf, hout⟩, ⟨_, hrunning⟩, ⟨hrxIdle, htxIdle⟩, hrest⟩ := h
  have ⟨_, hwarn, _⟩ := hrest
  cases i
  case frameC1 | frameC2 | frameC3 | frameC4 =>
    cases hexec
    exact rxFrame_inv _ h
  case rxProcess =>
    cases hexec
    exact rxProcess_inv h
  case rxByte b =>
    rcases execRxByte_cases hexec with ⟨hready, rfl⟩ | ⟨-, rfl⟩
    · exact rxAccept_inv h hready b
    · exact h
  case rxDeliver =>
    rcases execRxDeliver_cases hexec with ⟨g, hrun, -, rfl⟩ | ⟨-, rfl⟩
    · refine ⟨⟨hbuf, rfl, hout⟩, ⟨fun hhalt => (nomatch hrun.symm.trans hhalt), hrunning⟩, ⟨fun hdis => ?_, htxIdle⟩,
        hrest⟩
      obtain ⟨hempty, -, hidle⟩ := hrxIdle hdis
      exact ⟨hempty, rfl, hidle⟩
    · exact h
  case rxClose =>
    refine h.guarded hexec fun hopen => ?_
    obtain ⟨hen, hrun, -⟩ := rxOpen_iff.mp hopen
    by_cases hemit : s.rxState = .emit
    · rw [if_pos hemit]
      exact h.moveRx hrun hen hbuf houtf (fun _ => .inr hemit) hwarn s.rxPos s.rxCtr .done
    · rw [if_neg hemit]
      exact h.moveRx hrun hen rfl houtf (fun _ => .inl rfl) hwarn s.rxPos s.rxCtr .done
  case rxAbort =>
    refine h.guarded hexec fun hopen => ?_
    obtain ⟨hen, hrun, -⟩ := rxOpen_iff.mp hopen
    exact h.moveRx hrun hen rfl rfl (fun _ => .inl rfl) hwarn s.rxPos s.rxCtr .done
  all_goals cases hrx

/-! ### The TX path -/

/-- On a running core with the TX path enabled, TXOUT need only be bounded. -/
theorem Inv.moveTx {s : State} (h : Inv s) (hrun : s.fault = false) (hen : s.txEn = true) {out : List Byte}
    (hout : out.length ≤ 65535) (pos : Dword) (closed : Bool) (ctr : Byte) (r : Response) :
    Inv { s with txout := out, txPos := pos, txClosed := closed, txCtr := ctr, resp := r } := by
  obtain ⟨⟨hbuf, houtf, -⟩, ⟨-, hrunning⟩, ⟨hrxIdle, -⟩, hrest⟩ := h
  exact ⟨⟨hbuf, houtf, hout⟩, ⟨fun hhalt => (nomatch hrun.symm.trans hhalt), hrunning⟩,
    ⟨hrxIdle, fun hdis => nomatch hen.symm.trans hdis⟩, hrest⟩

/-- The steps of the TX path. -/
theorem exec_tx_inv {i : Instr} {s t : State} (htx : isTxInstr i = true) (h : Inv s) (hexec : exec i s = .next t) :
    Inv t := by
  have ⟨⟨_, _, hout⟩, _, ⟨_, htxIdle⟩, _⟩ := h
  cases i
  case txFrame f =>
    rcases execTxFrame_cases hexec with ⟨-, rfl⟩ | ⟨hready, out, ctr, henc, rfl⟩ | ⟨hready, x, -, rfl⟩
    · exact h
    · obtain ⟨hen, hrun, -⟩ := txfReady_iff.mp hready
      obtain ⟨hwhole, -⟩ := encryptFrame_ok henc
      obtain ⟨-, -, htotal⟩ := wholeFrame_iff.mp hwhole
      exact h.moveTx hrun hen (htotal ▸ totalLen_le_rxbufCap out) s.txPos s.txClosed ctr .done
    · obtain ⟨hen, -⟩ := txfReady_iff.mp hready
      exact h.faulted (.inr hen) .tx x
  case txByte =>
    rcases execTxByte_cases hexec with ⟨b, rest, hrun, hb, rfl⟩ | ⟨-, rfl⟩
    · have hen : s.txEn = true := by
        by_contra hdis
        obtain ⟨hempty, -⟩ := htxIdle (Bool.not_eq_true _ ▸ hdis)
        cases hempty.symm.trans hb
      rw [hb, List.length_cons] at hout
      exact h.moveTx hrun hen (Nat.le_of_succ_le hout) _ s.txClosed s.txCtr _
    · exact h
  case txClose =>
    refine h.guarded hexec fun hopen => ?_
    obtain ⟨hen, hrun, -⟩ := txOpen_iff.mp hopen
    exact h.moveTx hrun hen hout s.txPos true s.txCtr .done
  case txAbort =>
    refine h.guarded hexec fun hopen => ?_
    obtain ⟨hen, hrun, -⟩ := txOpen_iff.mp hopen
    exact h.moveTx hrun hen (Nat.zero_le _) s.txPos true s.txCtr .done
  all_goals cases htx

/-! ### The instructions of neither path -/

theorem diagStatus_reserved (x : Raised) : (diagStatus x).extractLsb' 9 7 = 0 := by
  have hcode : (x.cause.code.setWidth 32 : Word).extractLsb' 9 7 = 0 := by cases x.cause <;> decide
  have hinfo : (x.info0 <<< 16).extractLsb' 9 7 = 0 := by
    ext j hj
    simp [show 9 + j < 16 by omega]
  rw [diagStatus_eq, BitVec.extractLsb'_or, hcode, hinfo]
  rfl

theorem whenDiag_clean {f : State → State} {s : State} (hs : BlkStatusClean s) (hf : BlkStatusClean (f s)) :
    BlkStatusClean (whenDiag f s) := by
  unfold whenDiag
  split
  · exact hf
  · exact hs

theorem unlessHalted_clean {f : State → State} {s : State} (hs : BlkStatusClean s) (hf : BlkStatusClean (f s)) :
    BlkStatusClean (unlessHalted f s) := by
  unfold unlessHalted
  split
  · exact hs
  · exact hf

/-- A command writes 0, WARNED or the report of a fault to BLK_STATUS, or leaves it (R268 to R271). -/
theorem command_clean {s : State} (hs : BlkStatusClean s) (code : Byte) : BlkStatusClean (command code s) := by
  unfold command
  split_ifs
  · exact hs
  · exact hs
  · exact unlessHalted_clean hs hs
  · exact unlessHalted_clean hs hs
  · refine whenDiag_clean hs ?_
    split
    · exact clean_of_blkStatus_zero rfl
    · exact diagStatus_reserved _
  · refine whenDiag_clean hs ?_
    split
    · next d _ => cases d.warned <;> simp [BlkStatusClean, bitAt]
    · exact diagStatus_reserved _
  · exact whenDiag_clean hs (clean_of_blkStatus_zero rfl)
  · exact whenDiag_clean hs (clean_of_blkStatus_zero rfl)
  · exact hs

theorem writeNumber_clean {s : State} (hs : BlkStatusClean s) (n : BitVec 12) (v : Word) :
    BlkStatusClean (writeNumber s n v) := by
  rcases writeNumber_cases s n v with h | h | ⟨-, h⟩ | ⟨-, _, _, h⟩ | ⟨-, _, _, h⟩ | ⟨_, _, _, _, _, h⟩
  case inr.inr.inl => exact h ▸ command_clean hs _
  case inl =>
    rw [h]
    exact hs
  all_goals
    rw [h]
    exact hs

/-- An instruction of neither path keeps the reserved bits of BLK_STATUS 0. -/
theorem exec_host_clean {i : Instr} {s t : State} (hrx : isRxInstr i = false) (htx : isTxInstr i = false)
    (hs : BlkStatusClean s) (h : exec i s = .next t) : BlkStatusClean t := by
  have command {code : Byte} (hi : commandOf code = some i) : BlkStatusClean t := by
    cases (exec_of_commandOf hi s).symm.trans h
    exact command_clean hs code
  cases i
  case frameC1 | frameC2 | frameC3 | frameC4 | rxByte | rxProcess | rxDeliver | rxClose | rxAbort => cases hrx
  case txFrame | txByte | txClose | txAbort => cases htx
  case cmdNop => exact command (code := 0x00) rfl
  case cmdConnReset => exact command (code := 0x01) rfl
  case cmdRxCtrReset => exact command (code := 0x02) rfl
  case cmdTxCtrReset => exact command (code := 0x03) rfl
  case cmdBlkEnc => exact command (code := 0x10) rfl
  case cmdBlkDec => exact command (code := 0x11) rfl
  case cmdPack18 => exact command (code := 0x12) rfl
  case cmdUnpack18 => exact command (code := 0x13) rfl
  case csrWr n v =>
    cases h
    exact writeNumber_clean hs n v
  case reset =>
    cases h
    exact clean_of_blkStatus_zero rfl
  case csrRd | modmul | csum | pack18 | unpack18 | blkEnc | blkDec =>
    cases h
    exact hs

/-- A write of CTRL only sets enable bits, and changes LENIENT on an idle core only, whose WARN_CNT is 0 (R262). -/
theorem Inv.writeCtrl {s : State} (h : Inv s) (v : Word) : Inv (writeCtrl s v) := by
  obtain ⟨hbuffers, ⟨hhalted, hrunning⟩, ⟨hrxIdle, htxIdle⟩, ⟨hclosed, hwarn, hblk⟩⟩ := h
  refine ⟨hbuffers, ⟨fun hhalt => ?_, hrunning⟩, ⟨fun hdis => ?_, fun hdis => ?_⟩, ⟨hclosed, fun hcnt => ?_, hblk⟩⟩
  · obtain ⟨hbuf, houtf, hout, hres, hlo, hhi, hen⟩ := hhalted hhalt
    refine ⟨hbuf, houtf, hout, hres, hlo, hhi, ?_⟩
    rcases hen with hen | hen <;> simp [hen]
  · obtain ⟨hoff, -⟩ := Bool.or_eq_false_iff.mp hdis
    exact hrxIdle hoff
  · obtain ⟨hoff, -⟩ := Bool.or_eq_false_iff.mp hdis
    exact htxIdle hoff
  · have hen : s.rxEn = true := by
      by_contra hdis
      obtain ⟨-, -, -, -, hzero⟩ := hrxIdle (Bool.not_eq_true _ ▸ hdis)
      exact hcnt hzero
    obtain ⟨-, hlenient⟩ := writeCtrl_locked (.inl hen) v
    rw [hlenient]
    exact hwarn hcnt

/-! ### Every step -/

/-- Every instruction keeps the invariant. -/
theorem exec_inv {i : Instr} {s t : State} (h : Inv s) (hexec : exec i s = .next t) : Inv t := by
  cases hreset : isResetInstr i with
  | true =>
    rcases exec_reset_cases hreset hexec with rfl | rfl
    · exact h.connReset
    · exact inv_hardReset s
  | false =>
    cases hrx : isRxInstr i with
    | true => exact exec_rx_inv hrx h hexec
    | false =>
      cases htx : isTxInstr i with
      | true => exact exec_tx_inv htx h hexec
      | false =>
        have ⟨hbuffers, hfault, hidle, ⟨hclosed, hwarn, hblk⟩⟩ := h
        have hclean := exec_host_clean hrx htx hblk hexec
        cases exec_hostEffect hreset hrx htx hexec with
        | storage => exact ⟨hbuffers, hfault, hidle, hclosed, hwarn, hclean⟩
        | ctrl v => exact h.writeCtrl v
        | rxUnlocked => exact h
        | txUnlocked => exact h
        | rxCtrReset => exact h
        | txCtrReset => exact h

/-- Settles O41: the step runs RX.PROCESS, an instruction, or bytes one after another; taking the offer off the list
changes nothing the invariant reads. -/
theorem invariantKept : Obligations.InvariantKept := by
  intro s t h hstep
  rcases step_cases s with ⟨-, hs⟩ | ⟨o, rest, i, -, -, hs⟩ | ⟨o, rest, e, -, hd, hs⟩
  · exact exec_inv h (hs.symm.trans hstep)
  · exact exec_inv (s := s.takeOffer rest) h (hs.symm.trans hstep)
  · rcases decode_error_cases hd with ⟨bytes, rfl⟩ | ⟨i, rfl, -⟩
    · cases hs.symm.trans hstep
      exact rxFeed_inv bytes (s := s.takeOffer rest) h
    · cases hs.symm.trans hstep

/-- Settles O42: RESET of the reset state is the reset state. -/
theorem invariantAtReset : Obligations.InvariantAtReset :=
  inv_hardReset State.reset

end Sys2Proof.Machine

/-!
The micro-operations outside the operand domain of their rule (log entries 7, 8, 19, 20): the result is a free value,
and the checks that do not read the block are made.
-/

namespace Sys2Proof.Machine

/-! ### BLK.ENC of a block of another size -/

theorem exec_blkEnc_of_length_ne {s : State} {p : List Byte} (h : p.length ≠ s.variant.blockCap) (bank : Bank)
    (u : Byte) : exec (.blkEnc bank p u) s =
      .next { s with resp := encAnswer (blkEncOther s.variant (s.bank bank) p u) } := by
  have harm : exec (.blkEnc bank p u) s = execBlkEnc bank p u s := rfl
  rw [harm, execBlkEnc, if_neg h]
  rfl

/-- The size is checked first (log entry 20). -/
theorem blkEncOther_of_blockCap_lt {v : Variant} {u : Byte} (h : v.blockCap < u.toNat) (bank : KeyBank)
    (p : List Byte) : blkEncOther v bank p u = .error ⟨.invalidBlockSize, u.setWidth 32, 0⟩ :=
  if_pos h

theorem blkEncOther_of_checkKeys_error {v : Variant} {bank : KeyBank} {u : Byte} {x : Raised}
    (hu : u.toNat ≤ v.blockCap) (hkeys : checkKeys (encKeys v bank) = .error x) (p : List Byte) :
    blkEncOther v bank p u = .error x := by
  rw [blkEncOther, if_neg (not_lt.mpr hu), hkeys]

/-- With a legal size and usable keys the trailer is the one of R153. -/
theorem blkEncOther_of_checkKeys_ok {v : Variant} {bank : KeyBank} {u : Byte} (hu : u.toNat ≤ v.blockCap)
    (hkeys : checkKeys (encKeys v bank) = .ok ()) (p : List Byte) :
    blkEncOther v bank p u = .ok (Config.encOther (keyWords (encKeys v bank)) p u ++
      [u ^^^ blockSizeXorKey ^^^ csumOperand p u.toNat, csumOperand p u.toNat]) := by
  rw [blkEncOther, if_neg (not_lt.mpr hu), hkeys]

/-! ### BLK.DEC of a block of another size -/

theorem exec_blkDec_of_length_ne {s : State} {c : List Byte} (h : c.length ≠ s.variant.encBlockSize) (bank : Bank)
    (lenient : Bool) : exec (.blkDec bank c lenient) s =
      .next { s with resp := decAnswer (blkDecOther s.variant (s.bank bank) c lenient) } := by
  have harm : exec (.blkDec bank c lenient) s = execBlkDec bank c lenient s := rfl
  rw [harm, execBlkDec, if_neg h]
  rfl

theorem blkDecOther_of_checkKeys_error {v : Variant} {bank : KeyBank} {x : Raised}
    (hkeys : checkKeys (decKeys v bank) = .error x) (c : List Byte) (lenient : Bool) :
    blkDecOther v bank c lenient = .error x := by
  rw [blkDecOther, hkeys]

/-- With usable keys the answer is that of the trailer checks, whatever the plaintext and the trailer are. -/
theorem blkDecOther_of_checkKeys_ok {v : Variant} {bank : KeyBank} (hkeys : checkKeys (decKeys v bank) = .ok ())
    (c : List Byte) (lenient : Bool) : blkDecOther v bank c lenient =
      checkTrailer v (Config.decOther (keyWords (decKeys v bank)) c) (Config.trailerOther c).1
        (Config.trailerOther c).2 lenient := by
  rw [blkDecOther, hkeys]

/-- What BLK.DEC answers by the trailer checks: a block, or one of their two faults (R154). -/
theorem decAnswer_checkTrailer_cases (v : Variant) (p : List Byte) (t0 t1 : Byte) (lenient : Bool) :
    (∃ (q : List Byte) (u : Byte) (w : Bool), decAnswer (checkTrailer v p t0 t1 lenient) = .block q u w ∧
      u.toNat ≤ v.blockCap ∧ (w = true → lenient = true)) ∨
    (∃ u : Byte, decAnswer (checkTrailer v p t0 t1 lenient) = .raised ⟨.invalidBlockSize, u.setWidth 32, 0⟩ ∧
      v.blockCap < u.toNat) ∨
    ∃ sum last : Byte, lenient = false ∧ sum ≠ last ∧ decAnswer (checkTrailer v p t0 t1 lenient) =
      .raised ⟨.invalidBlockChecksum, (sum.setWidth 32 <<< 8) ||| last.setWidth 32, 0⟩ := by
  rcases checkTrailer_cases v p t0 t1 lenient with
    ⟨hsize, h⟩ | ⟨hsize, -, h⟩ | ⟨hsize, -, hlenient, h⟩ | ⟨-, hne, hstrict, h⟩ <;> rw [h]
  · exact .inr (.inl ⟨_, rfl, hsize⟩)
  · exact .inl ⟨_, _, _, rfl, hsize, fun hwarned => nomatch hwarned⟩
  · exact .inl ⟨_, _, _, rfl, hsize, fun _ => hlenient⟩
  · exact .inr (.inr ⟨_, _, hstrict, hne, by rw [← setWidth_append_bytes]; rfl⟩)

/-! ### The obligation -/

/-- Settles O51: each micro-operation answers and changes nothing else; the checks of BLK.ENC and BLK.DEC that stand are
those of the key slots, the size and the trailer. -/
theorem microOutsideDomain : Obligations.MicroOutsideDomain := by
  intro s
  refine ⟨fun a k => ⟨_, rfl⟩, fun p n _ => ⟨_, rfl⟩, fun b i v _ => ⟨⟨_, rfl⟩, ⟨_, rfl⟩⟩, fun bank p u hp => ?enc,
    fun bank c l hc => ?dec⟩
  case enc =>
    rw [exec_blkEnc_of_length_ne hp]
    refine ⟨fun hsize => ?size, fun hu husable => ?ok, fun i hu ⟨hi, hzero, hlow⟩ => ?key⟩
    case size =>
      rw [blkEncOther_of_blockCap_lt hsize]
      rfl
    case ok =>
      rw [blkEncOther_of_checkKeys_ok hu (checkKeys_slotKeys_of_usable _ _ husable)]
      exact ⟨_, csumOperand p u.toNat, fun hn => if_pos hn, rfl⟩
    case key =>
      rw [blkEncOther_of_checkKeys_error hu (checkKeys_slotKeys_of_lowest _ _ hi hzero hlow)]
      rfl
  case dec =>
    rw [exec_blkDec_of_length_ne hc]
    refine ⟨fun i ⟨hi, hzero, hlow⟩ => ?key, fun husable => ⟨_, rfl, ?trailer⟩⟩
    case key =>
      rw [blkDecOther_of_checkKeys_error (checkKeys_slotKeys_of_lowest _ _ hi hzero hlow)]
      rfl
    case trailer =>
      rw [blkDecOther_of_checkKeys_ok (checkKeys_slotKeys_of_usable _ _ husable)]
      exact decAnswer_checkTrailer_cases ..

end Sys2Proof.Machine
